-- ==== Sys2Proof/Word.lean ====
section
/-! DEFINITION. The word types of the CHIP-8 core: every value is unsigned (spec/00_scope.md section 5, rules R2, R4).
Nothing here has a choice in it. -/

namespace Sys2Proof

/-- A byte: a `V` register, a cell of `MEM`, a timer (R2, R11, R17, R19). -/
abbrev Byte := BitVec 8

/-- A 16-bit word: an instruction word, `I`, `PC`, a stack slot (R2, R13, R14, R16, R60). -/
abbrev Word := BitVec 16

/-- A register index: the 4-bit field `x` or `y` of an instruction word (R11, R61). -/
abbrev Reg := BitVec 4

/-- A 4-bit count or key code (R61, R148). -/
abbrev Nibble := BitVec 4

/-- The 12-bit address immediate `nnn` (R61). -/
abbrev Addr := BitVec 12

/-- The 2048 display bits: bit `x + 64*y` is the pixel in column `x`, row `y` (R20). -/
abbrev Display := BitVec 2048

/-- The 16 key bits: bit `k` is key `k` (R21). -/
abbrev Keys := BitVec 16

/-- `VF`, register 15, the flag register (R12). -/
abbrev VF : Reg := 15#4

end Sys2Proof
end

