-- ==== Sys2Proof/Machine/Flags.lean ====
section
/-! DEFINITION. Every flag computation of the spec: the value left in `VF` (spec/10_state.md rule R12). -/

namespace Sys2Proof.Machine

/-- A comparison result as a register value: 1 or 0 (R4). -/
def flagByte (b : Bool) : Byte := if b then 1 else 0

/-- `8xy4`: the sum of the two bytes exceeds 255 (R96). -/
def carryFlag (a b : Byte) : Byte := flagByte (decide (255 < a.toNat + b.toNat))

/-- `8xy5`, `8xy7`: the minuend is strictly greater than the subtrahend (R97, R99, R102). -/
def greaterFlag (minuend subtrahend : Byte) : Byte := flagByte (decide (subtrahend.toNat < minuend.toNat))

/-- `8xy6`: bit 0, the bit shifted out (R98). -/
def lowBitFlag (a : Byte) : Byte := a &&& 1

/-- `8xyE`: bit 7, the bit shifted out (R100). -/
def highBitFlag (a : Byte) : Byte := (a >>> 7) &&& 1

/-- `Dxyn`: some pixel was turned from 1 to 0 (R121). -/
def collisionFlag (hit : Bool) : Byte := flagByte hit

end Sys2Proof.Machine
end

