-- ==== Sys2Proof/Config.lean ====
section
/-! DEFINITION. The parameters of spec/00_scope.md rules R2 and R3: what the source fixes, what the spec chooses, and the two
values it leaves open (free values: opaque, with no body). `OOR_POLICY` has the one value `fault` and so is no choice (R3, D3);
`INSTR_PER_TICK` is a property of the host that a model must not fix (R197): see `State.script`. -/

namespace Sys2Proof.Config

/-! ## Fixed by the source (R2) -/

/-- `FONT_BASE` (R2): the font occupies 80 bytes from here. -/
def fontBase : Nat := 0x050

/-- `PROG_BASE` (R2): where LOAD_PROGRAM puts the program. -/
def progBase : Nat := 0x200

/-- `MAX_PROG_LEN` (R2): the longest program LOAD_PROGRAM takes. -/
def maxProgLen : Nat := 3583

/-- `RESET_PC` (R2). -/
def resetPc : Word := 0x200#16

/-! ## Parameters with a value taken by the spec (R3) -/

/-- `FX29_BASE` (R3, R112): the spec takes 0x0000; the documented alternative is 0x0050.
UNVERIFIED (the spec's decision D13 in its conflict C3), unsafe where a claim depends on it: log 3. -/
def fx29Base : Word := 0x0000#16

/-- The two values of the parameter `SPRITE_OOB` (R3, R121, R122). -/
inductive SpriteOob where
  /-- A set sprite bit outside the 64x32 grid raises DISPLAY_OUT_OF_RANGE (R121). -/
  | reject
  /-- Each coordinate of each pixel wraps by itself (R122). -/
  | wrap
deriving DecidableEq, Repr

/-- `SPRITE_OOB` (R3): the spec takes `reject`. UNVERIFIED (the spec's decision D11), safe: log 4. -/
def spriteOob : SpriteOob := .reject

/-- `STRICT_PATTERNS` (R3, R64): the fixed nibbles of a pattern must match. UNVERIFIED (the spec's decision D19 in its conflict C7), unsafe: log 5. -/
def strictPatterns : Bool := true

/-- `FONT_TABLE` (R3, R26): the 80 bytes of the conventional hexadecimal font, glyph 0 to glyph F, five bytes each, top row first.
PRESUMED (from general knowledge, by the spec's own note: D20, G1), unsafe where a claim depends on the bytes: log 6. -/
def fontTable : List Byte :=
  [0xF0, 0x90, 0x90, 0x90, 0xF0,  0x20, 0x60, 0x20, 0x20, 0x70,
   0xF0, 0x10, 0xF0, 0x80, 0xF0,  0xF0, 0x10, 0xF0, 0x10, 0xF0] ++
  [0x90, 0x90, 0xF0, 0x10, 0x10,  0xF0, 0x80, 0xF0, 0x10, 0xF0,
   0xF0, 0x80, 0xF0, 0x90, 0xF0,  0xF0, 0x10, 0x20, 0x40, 0x40] ++
  [0xF0, 0x90, 0xF0, 0x90, 0xF0,  0xF0, 0x90, 0xF0, 0x10, 0xF0,
   0xF0, 0x90, 0xF0, 0x90, 0x90,  0xE0, 0x90, 0xE0, 0x90, 0xE0] ++
  [0xF0, 0x80, 0x80, 0x80, 0xF0,  0xE0, 0x90, 0x90, 0x90, 0xE0,
   0xF0, 0x80, 0xF0, 0x80, 0xF0,  0xF0, 0x80, 0xF0, 0x80, 0x80]

/-! ## Left open: free values (R3) -/

/-- The input `rnd` (R101, R152, D17): the byte the environment presents to the n-th `Cxnn` step. A free value: opaque, with no
body, so a claim holds for every byte. DESIGN CHOICE (the counter it is applied to), safe: log 1. -/
opaque randomByte : Nat → Byte

/-- The open part of `KEY_SELECT` (R132, D14): which of the keys that are down `Fx0A` takes, as an index into their list reduced by
its length (`Machine.keySelect`). A free value: opaque, with no body. DESIGN CHOICE (the form), safe: log 2. -/
opaque keyChoice : Keys → Nat

end Sys2Proof.Config
end

