-- ==== Sys2Proof/Syntax.lean ====
section
/-! DEFINITION. The instruction set: one constructor per row of spec/opcode_table.json (spec/30_encoding.md rule R65), in the
table's order. An operand has exactly the width of its field (R61, R63). An unmatched word (R66) has no row and no constructor. -/

namespace Sys2Proof

/-- The 34 instructions of R65. -/
inductive Instr where
  /-- `00E0` CLS (R120). -/
  | cls
  /-- `00EE` RET (R80). -/
  | ret
  /-- `1nnn` JP nnn (R81). -/
  | jp (nnn : Addr)
  /-- `2nnn` CALL nnn (R82). -/
  | call (nnn : Addr)
  /-- `3xnn` SE Vx, nn (R84). -/
  | seImm (x : Reg) (nn : Byte)
  /-- `4xnn` SNE Vx, nn (R85). -/
  | sneImm (x : Reg) (nn : Byte)
  /-- `5xy0` SE Vx, Vy (R86). -/
  | seReg (x y : Reg)
  /-- `6xnn` LD Vx, nn (R90). -/
  | ldImm (x : Reg) (nn : Byte)
  /-- `7xnn` ADD Vx, nn (R91). -/
  | addImm (x : Reg) (nn : Byte)
  /-- `8xy0` LD Vx, Vy (R92). -/
  | ldReg (x y : Reg)
  /-- `8xy1` OR Vx, Vy (R93). -/
  | orReg (x y : Reg)
  /-- `8xy2` AND Vx, Vy (R94). -/
  | andReg (x y : Reg)
  /-- `8xy3` XOR Vx, Vy (R95). -/
  | xorReg (x y : Reg)
  /-- `8xy4` ADD Vx, Vy (R96). -/
  | addReg (x y : Reg)
  /-- `8xy5` SUB Vx, Vy (R97). -/
  | sub (x y : Reg)
  /-- `8xy6` SHR Vx (R98); the field `y` is carried and ignored (R62, R67). -/
  | shr (x y : Reg)
  /-- `8xy7` SUBN Vx, Vy (R99). -/
  | subn (x y : Reg)
  /-- `8xyE` SHL Vx (R100); the field `y` is carried and ignored (R62, R67). -/
  | shl (x y : Reg)
  /-- `9xy0` SNE Vx, Vy (R87). -/
  | sneReg (x y : Reg)
  /-- `Annn` LD I, nnn (R110). -/
  | ldI (nnn : Addr)
  /-- `Bnnn` JP V0, nnn (R83). -/
  | jpV0 (nnn : Addr)
  /-- `Cxnn` RND Vx, nn (R101). -/
  | rnd (x : Reg) (nn : Byte)
  /-- `Dxyn` DRW Vx, Vy, n (R121). -/
  | drw (x y : Reg) (n : Nibble)
  /-- `Ex9E` SKP Vx (R130). -/
  | skp (x : Reg)
  /-- `ExA1` SKNP Vx (R131). -/
  | sknp (x : Reg)
  /-- `Fx07` LD Vx, DT (R133). -/
  | ldVxDT (x : Reg)
  /-- `Fx0A` LD Vx, K (R132). -/
  | ldVxK (x : Reg)
  /-- `Fx15` LD DT, Vx (R134). -/
  | ldDTVx (x : Reg)
  /-- `Fx18` LD ST, Vx (R135). -/
  | ldSTVx (x : Reg)
  /-- `Fx1E` ADD I, Vx (R111). -/
  | addI (x : Reg)
  /-- `Fx29` LD F, Vx (R112). -/
  | ldF (x : Reg)
  /-- `Fx33` LD B, Vx (R113). -/
  | ldB (x : Reg)
  /-- `Fx55` LD [I], Vx (R114). -/
  | stRegs (x : Reg)
  /-- `Fx65` LD Vx, [I] (R115). -/
  | ldRegs (x : Reg)
deriving DecidableEq, Repr

end Sys2Proof
end

