-- ==== Sys2Proof/WellFormed.lean ====
section
/-! DEFINITION. Well-formed instructions. Every operand already has exactly the width of its field, so no operand can be out of
range (R61, R63, R67). The one condition the spec puts on an instruction beyond that is on what an assembler emits: `SHR Vx` and
`SHL Vx` have one operand and are emitted with `y = 0` (R70). The decoder accepts any `y` and the machine runs any `y` (R62, R98,
R100), so no meaning and no statement assumes an instruction well-formed: log 19. -/

namespace Sys2Proof

/-- The instruction is one an assembler emits (R70): `y = 0` in SHR and SHL, every other instruction as it stands. -/
def Instr.wellFormed : Instr → Bool
  | .shr _ y => y == 0
  | .shl _ y => y == 0
  | .cls | .ret | .jp _ | .call _ | .seImm _ _ | .sneImm _ _ | .seReg _ _ | .ldImm _ _ | .addImm _ _ | .ldReg _ _
  | .orReg _ _ | .andReg _ _ | .xorReg _ _ | .addReg _ _ | .sub _ _ | .subn _ _ | .sneReg _ _ | .ldI _ | .jpV0 _
  | .rnd _ _ | .drw _ _ _ | .skp _ | .sknp _ | .ldVxDT _ | .ldVxK _ | .ldDTVx _ | .ldSTVx _ | .addI _ | .ldF _
  | .ldB _ | .stRegs _ | .ldRegs _ => true

end Sys2Proof
end

