-- ==== Sys2Proof/Decode.lean ====
section
/-! DEFINITION. Fields, decoder and encoder (spec/30_encoding.md). Decoding is by match and mask over the 34 rows of R65; what no
row matches is rejected by name (R66). The encoder is written from the formats of R62. -/

namespace Sys2Proof

/-! ## Fields (R61) -/

/-- `x`, bits 11..8 (R61). -/
def fieldX (ins : Word) : Reg := ins.extractLsb' 8 4
/-- `y`, bits 7..4 (R61). -/
def fieldY (ins : Word) : Reg := ins.extractLsb' 4 4
/-- `n`, bits 3..0 (R61). -/
def fieldN (ins : Word) : Nibble := ins.extractLsb' 0 4
/-- `nn`, bits 7..0 (R61). -/
def fieldNN (ins : Word) : Byte := ins.extractLsb' 0 8
/-- `nnn`, bits 11..0 (R61). -/
def fieldNNN (ins : Word) : Addr := ins.extractLsb' 0 12

/-! ## The opcode map (R64, R65) -/

/-- One row of R65: the mask, the match, and the instruction its fields make. -/
structure OpRow where
  mask : Word
  pat : Word
  build : Word → Instr

/-- Rows of format A, `nnn` in bits 11..0 (R62). -/
def rowA (pat : Word) (mk : Addr → Instr) : OpRow := ⟨0xF000, pat, fun w => mk (fieldNNN w)⟩
/-- Rows of format XB, `x` and `nn` (R62). -/
def rowXB (pat : Word) (mk : Reg → Byte → Instr) : OpRow := ⟨0xF000, pat, fun w => mk (fieldX w) (fieldNN w)⟩
/-- Rows of format XY, `x` and `y`, under the mask given (R62). -/
def rowXY (mask pat : Word) (mk : Reg → Reg → Instr) : OpRow := ⟨mask, pat, fun w => mk (fieldX w) (fieldY w)⟩
/-- Rows of format X, `x` alone (R62). -/
def rowX (pat : Word) (mk : Reg → Instr) : OpRow := ⟨0xF0FF, pat, fun w => mk (fieldX w)⟩

/-- Rows 1 to 7 of R65. Without strict patterns, families 0 and 5 look only at their sub-dispatch field (C7; log 5). -/
def rowsFlow (strict : Bool) : List OpRow :=
  [⟨if strict then 0xFFFF else 0xF0FF, 0x00E0, fun _ => .cls⟩,
   ⟨if strict then 0xFFFF else 0xF0FF, 0x00EE, fun _ => .ret⟩,
   rowA 0x1000 .jp, rowA 0x2000 .call, rowXB 0x3000 .seImm, rowXB 0x4000 .sneImm,
   rowXY (if strict then 0xF00F else 0xF000) 0x5000 .seReg]

/-- Rows 8 to 18 of R65. -/
def rowsAlu : List OpRow :=
  [rowXB 0x6000 .ldImm, rowXB 0x7000 .addImm,
   rowXY 0xF00F 0x8000 .ldReg, rowXY 0xF00F 0x8001 .orReg, rowXY 0xF00F 0x8002 .andReg, rowXY 0xF00F 0x8003 .xorReg,
   rowXY 0xF00F 0x8004 .addReg, rowXY 0xF00F 0x8005 .sub, rowXY 0xF00F 0x8006 .shr, rowXY 0xF00F 0x8007 .subn,
   rowXY 0xF00F 0x800E .shl]

/-- Rows 19 to 23 of R65. Without strict patterns, family 9 ignores `n` (C7; log 5). -/
def rowsMid (strict : Bool) : List OpRow :=
  [rowXY (if strict then 0xF00F else 0xF000) 0x9000 .sneReg, rowA 0xA000 .ldI, rowA 0xB000 .jpV0, rowXB 0xC000 .rnd,
   ⟨0xF000, 0xD000, fun w => .drw (fieldX w) (fieldY w) (fieldN w)⟩]

/-- Rows 24 to 34 of R65. -/
def rowsX : List OpRow :=
  [rowX 0xE09E .skp, rowX 0xE0A1 .sknp, rowX 0xF007 .ldVxDT, rowX 0xF00A .ldVxK, rowX 0xF015 .ldDTVx, rowX 0xF018 .ldSTVx,
   rowX 0xF01E .addI, rowX 0xF029 .ldF, rowX 0xF033 .ldB, rowX 0xF055 .stRegs, rowX 0xF065 .ldRegs]

/-- The opcode map, 34 rows in the order of R65, under `STRICT_PATTERNS`. -/
def opcodeTable (strict : Bool) : List OpRow := rowsFlow strict ++ rowsAlu ++ rowsMid strict ++ rowsX

/-! ## The decoder (R64, R66) -/

/-- Why bytes are not an instruction of the catalogue. -/
inductive DecodeReject where
  /-- No row of R65 matches the word (R66): the STEP runs it as a two-byte no-operation (R140). -/
  | unmatched (ins : Word)
  /-- Fewer than two bytes: every instruction is two bytes long (R60). -/
  | truncated
deriving DecidableEq, Repr

/-- `ins` selects the row with `(ins & mask) == match` (R64), under a given `STRICT_PATTERNS`. -/
def decodeWordWith (strict : Bool) (ins : Word) : Except DecodeReject Instr :=
  match (opcodeTable strict).find? (fun r => ins &&& r.mask == r.pat) with
  | some r => .ok (r.build ins)
  | none => .error (.unmatched ins)

/-- The decoder under the value of `STRICT_PATTERNS` the spec takes (R3, R64). -/
def decodeWord (ins : Word) : Except DecodeReject Instr := decodeWordWith Config.strictPatterns ins

/-- The word two bytes make, the byte at the lower address first: big-endian (R43, R60). -/
def wordOfBytes (hi lo : Byte) : Word := (hi.setWidth 16 <<< 8) ||| lo.setWidth 16

/-- The bytes of a word as memory holds them, the high byte at the lower address (R43). -/
def bytesOfWord (ins : Word) : List Byte := [ins.extractLsb' 8 8, ins.extractLsb' 0 8]

/-- Decode the instruction at the head of a list of bytes, giving the bytes after it (R43, R60, R64). -/
def decode : List Byte → Except DecodeReject (Instr × List Byte)
  | hi :: lo :: rest =>
    match decodeWord (wordOfBytes hi lo) with
    | .ok i => .ok (i, rest)
    | .error e => .error e
  | _ => .error .truncated

/-! ## The encoder (R62, R65) -/

/-- Format A: `op` in bits 15..12, `nnn` in 11..0 (R62). -/
def formatA (op : Nibble) (nnn : Addr) : Word := (op.setWidth 16 <<< 12) ||| nnn.setWidth 16
/-- Format XB, and X with its fixed low byte: `op` in bits 15..12, `x` in 11..8, the byte in 7..0 (R62). -/
def formatXB (op : Nibble) (x : Reg) (nn : Byte) : Word :=
  (op.setWidth 16 <<< 12) ||| (x.setWidth 16 <<< 8) ||| nn.setWidth 16
/-- Formats XY and XYN: `op` in bits 15..12, `x` in 11..8, `y` in 7..4, the low nibble in 3..0 (R62). -/
def formatXY (op : Nibble) (x y : Reg) (low : Nibble) : Word :=
  (op.setWidth 16 <<< 12) ||| (x.setWidth 16 <<< 8) ||| (y.setWidth 16 <<< 4) ||| low.setWidth 16

/-- The word of an instruction, from the formats and patterns of R62 and R65. -/
def encode : Instr → Word
  | .cls => 0x00E0#16
  | .ret => 0x00EE#16
  | .jp nnn => formatA 0x1 nnn
  | .call nnn => formatA 0x2 nnn
  | .seImm x nn => formatXB 0x3 x nn
  | .sneImm x nn => formatXB 0x4 x nn
  | .seReg x y => formatXY 0x5 x y 0x0
  | .ldImm x nn => formatXB 0x6 x nn
  | .addImm x nn => formatXB 0x7 x nn
  | .ldReg x y => formatXY 0x8 x y 0x0
  | .orReg x y => formatXY 0x8 x y 0x1
  | .andReg x y => formatXY 0x8 x y 0x2
  | .xorReg x y => formatXY 0x8 x y 0x3
  | .addReg x y => formatXY 0x8 x y 0x4
  | .sub x y => formatXY 0x8 x y 0x5
  | .shr x y => formatXY 0x8 x y 0x6
  | .subn x y => formatXY 0x8 x y 0x7
  | .shl x y => formatXY 0x8 x y 0xE
  | .sneReg x y => formatXY 0x9 x y 0x0
  | .ldI nnn => formatA 0xA nnn
  | .jpV0 nnn => formatA 0xB nnn
  | .rnd x nn => formatXB 0xC x nn
  | .drw x y n => formatXY 0xD x y n
  | .skp x => formatXB 0xE x 0x9E
  | .sknp x => formatXB 0xE x 0xA1
  | .ldVxDT x => formatXB 0xF x 0x07
  | .ldVxK x => formatXB 0xF x 0x0A
  | .ldDTVx x => formatXB 0xF x 0x15
  | .ldSTVx x => formatXB 0xF x 0x18
  | .addI x => formatXB 0xF x 0x1E
  | .ldF x => formatXB 0xF x 0x29
  | .ldB x => formatXB 0xF x 0x33
  | .stRegs x => formatXB 0xF x 0x55
  | .ldRegs x => formatXB 0xF x 0x65

/-! ## The host's numbering of a table row's bits -/

/-- The instruction word whose low `nbits` bits are `w`, every bit above them 0. -/
def tableWord (nbits w : Nat) : Word := BitVec.ofNat 16 (w % 2 ^ nbits)

/-- The instruction the decoder reads from a table row's bits, laid out in memory order. -/
def decodeTableWord (nbits w : Nat) : Option Instr :=
  match decode (bytesOfWord (tableWord nbits w)) with
  | .ok (i, _) => some i
  | .error _ => none

end Sys2Proof
end

