-- ==== Sys2Proof/Machine/State.lean ====
section
/-! DEFINITION. The state of the core (spec/10_state.md rule R10), the model's three fields for its surroundings (rnd, events,
host), the reasons a step can stop, and the state after RESET (R26). -/

namespace Sys2Proof.Machine

/-- `MEM` (R19) as the cells that differ from their reset contents, addresses strictly rising. -/
abbrev Memory := List Host.Cell

/-- The six fault causes of R160. Taking one is a NEXT state (R161), not an end of the model's run. -/
inductive FaultCause where
  /-- 1: the fetch of a STEP with `PC > 0xFFE`. -/
  | fetchOutOfRange
  /-- 2: `2nnn` with `SP = 16`. -/
  | stackOverflow
  /-- 3: `00EE` with `SP = 0`. -/
  | stackUnderflow
  /-- 4: a data access of `Dxyn`, `Fx33`, `Fx55`, `Fx65` above `0xFFF`. -/
  | memOutOfRange
  /-- 5: a set sprite bit of `Dxyn` outside the grid, under `SPRITE_OOB = reject`. -/
  | displayOutOfRange
  /-- 6: `Ex9E`, `ExA1` with `V[x] > 15`. -/
  | keyIndexOutOfRange
deriving DecidableEq, Repr

/-- The event outputs (R151). A command raises at most one. -/
inductive Event where
  /-- A STEP ran an unmatched word (R140, R141). -/
  | unknownOp (ins : Word)
  /-- A STEP ran `Fx0A` with no key down (R132, R151). -/
  | keyWait
  /-- A LOAD_PROGRAM was refused (R149). -/
  | programTooLarge
  /-- A TICK left the sound timer above zero (R170). -/
  | toneOn
  /-- A TICK took the sound timer from 1 to 0 (R170). -/
  | toneOff
deriving DecidableEq, Repr

/-- The five commands of the host port (R145). The input `rnd` of STEP is the free value of log 1. -/
inductive Command where
  /-- RESET (R150, R190). -/
  | reset
  /-- LOAD_PROGRAM with its bytes (R149). -/
  | loadProgram (bytes : List Byte)
  /-- STEP (R146). -/
  | step
  /-- TICK (R147, R170). -/
  | tick
  /-- SET_KEY: the index is a 4-bit input (R148, D22). -/
  | setKey (index : Nibble) (pressed : Bool)
deriving DecidableEq, Repr

/-- The whole state: the thirteen pieces of R10, then three fields of the model's own. -/
structure State where
  /-- `V[0..15]` (R11, R12). -/
  v : Vector Byte 16
  /-- `I`, the address register (R13). -/
  i : Word
  /-- `PC` (R14). -/
  pc : Word
  /-- `SP`, 0..16 (R15). -/
  sp : Fin 17
  /-- `STACK[0..15]` (R16). -/
  stack : Vector Word 16
  /-- `DT`, the delay timer (R17). -/
  dt : Byte
  /-- `ST`, the sound timer (R18). -/
  st : Byte
  /-- `MEM[0..4095]` (R19). -/
  mem : Memory
  /-- `DISP[0..2047]` (R20). -/
  disp : Display
  /-- `KEYS[0..15]` (R21). -/
  keys : Keys
  /-- `FAULT` (R22). -/
  fault : Bool
  /-- `FAULT_CAUSE` (R22). -/
  faultCause : BitVec 3
  /-- `FAULT_INS` (R22). -/
  faultIns : Word
  /-- The model's own: how many bytes of the input `rnd` have been sampled (R152; log 1). -/
  draws : Nat
  /-- The model's own: the event output of the latest command (R151; log 11). -/
  event : Option Event
  /-- The model's own: the commands the host will present next, oldest first; after them it presents STEP (R145; log 10). -/
  script : List Command
deriving DecidableEq, Repr

/-- Reasons the model's run stops with a fault: none. Every fault the spec names (R160) is a latch the core sets and goes on from
(R161, R163), so it is a next state; no condition of the spec ends the model's run. Having no constructor is safe: log 9. -/
inductive Fault
deriving DecidableEq, Repr

/-- Reasons the model has no meaning for an instruction. -/
inductive Refusal where
  /-- Raised by an arm of `exec` for an instruction that has no meaning yet; no arm raises it now. Safe: it claims nothing. -/
  | notModelled (mnemonic : String)
deriving DecidableEq, Repr

/-- What an instruction, a command or a step answers. -/
abbrev Result := Host.Outcome State Fault Refusal

/-- The state after RESET (R26, R190). `MEM` holds its reset contents, so no cell is listed. The last three fields are the
model's own: DESIGN CHOICE, unsafe only for a claim about them: logs 1, 10, 11. -/
def State.reset : State where
  v := Vector.replicate 16 0
  i := 0
  pc := Config.resetPc
  sp := 0
  stack := Vector.replicate 16 0
  dt := 0
  st := 0
  mem := []
  disp := 0
  keys := 0
  fault := false
  faultCause := 0
  faultIns := 0
  draws := 0
  event := none
  script := []

end Sys2Proof.Machine
end

