-- ==== Sys2Proof/Machine/Ops.lean ====
section
/-! DEFINITION. The named operations over registers, memory, stack, display, outputs; taking a fault and leaving it. Meanings touch
the state through these alone (spec/00_scope.md section 5, the primitives). -/

namespace Sys2Proof.Machine

/-! ## General registers (R11) -/

/-- A register index is below 16. -/
theorem reg_lt (x : Reg) : x.toNat < 16 := x.isLt

/-- `V[x]` (R11). -/
def State.readV (s : State) (x : Reg) : Byte := s.v[x.toNat]'(reg_lt x)

/-- `V[x] <- b` (R11). -/
def State.writeV (s : State) (x : Reg) (b : Byte) : State := { s with v := s.v.set x.toNat b (reg_lt x) }

/-- `V[k], V[k+1], ...` loaded from a list of bytes, ascending; a byte past `V[15]` has no register (R115). -/
def State.writeVs (s : State) (k : Nat) : List Byte → State
  | [] => s
  | b :: bs => if k < 16 then State.writeVs (s.writeV (BitVec.ofNat 4 k) b) (k + 1) bs else s

/-! ## I, PC, timers, display, keys (R13, R14, R17, R18, R20, R21) -/

/-- `I <- a` (R13). -/
def State.setI (s : State) (a : Word) : State := { s with i := a }

/-- `PC <- a` (R14). -/
def State.setPc (s : State) (a : Word) : State := { s with pc := a }

/-- `DT <- b` (R17). -/
def State.setDT (s : State) (b : Byte) : State := { s with dt := b }

/-- `ST <- b` (R18). -/
def State.setST (s : State) (b : Byte) : State := { s with st := b }

/-- The display bits replaced (R20). -/
def State.setDisp (s : State) (d : Display) : State := { s with disp := d }

/-- `KEYS[k] <- pressed` (R21, R148). -/
def State.setKey (s : State) (k : Nibble) (pressed : Bool) : State :=
  { s with keys := if pressed then s.keys ||| BitVec.twoPow 16 k.toNat else s.keys &&& ~~~ BitVec.twoPow 16 k.toNat }

/-- `KEYS[k]` (R21). -/
def State.keyDown (s : State) (k : Nat) : Bool := s.keys.getLsbD k

/-- The default program-counter rule, `pc + 2` (R14, R69). -/
def State.advance (s : State) : State := s.setPc (s.pc + 2)

/-- A conditional skip: `pc + 4` when taken, else `pc + 2` (R69). -/
def State.skipIf (s : State) (taken : Bool) : State := s.setPc (s.pc + if taken then 4 else 2)

/-! ## Memory (R19, R41, R42, R47) -/

/-- What `MEM[a]` holds after RESET: the font in `0x050..0x09F`, 0 elsewhere (R26, R47). It is what an unlisted address reads as. -/
def resetByte (a : Nat) : Byte :=
  if Config.fontBase ≤ a then Config.fontTable.getD (a - Config.fontBase) 0 else 0

/-- `MEM[a]` for an address known to be in range. -/
def Memory.read : Memory → Nat → Byte
  | [], a => resetByte a
  | (k, b) :: rest, a => if k = a then b else Memory.read rest a

/-- The cell that records `b` at `a`: none where `b` is what an unlisted address reads as. -/
def Memory.cell (a : Nat) (b : Byte) : Memory := if b = resetByte a then [] else [(a, b)]

/-- Put the record of `b` at `a` before the first cell of a higher address. -/
def Memory.insert (a : Nat) (b : Byte) : Memory → Memory
  | [] => Memory.cell a b
  | (k, c) :: rest => if a < k then Memory.cell a b ++ (k, c) :: rest else (k, c) :: Memory.insert a b rest

/-- `MEM[a] <- b` for an address known to be in range: the old record is taken out, the new one put in its place (R42). -/
def Memory.write (m : Memory) (a : Nat) (b : Byte) : Memory := Memory.insert a b (m.filter (fun c => c.1 != a))

/-- The canonical form: addresses strictly rising and inside `MEM`, no cell equal to what an unlisted address reads as. -/
abbrev Memory.wf (m : Memory) : Prop :=
  m.Pairwise (fun p q => p.1 < q.1) ∧ ∀ c ∈ m, c.1 ≤ 0xFFF ∧ c.2 ≠ resetByte c.1

/-- The bytes at `a, a+1, ...`, `n` of them, ascending (R46). -/
def Memory.readBytes (m : Memory) (a : Nat) : Nat → List Byte
  | 0 => []
  | n + 1 => m.read a :: Memory.readBytes m (a + 1) n

/-- Bytes stored at `a, a+1, ...`, ascending (R46). -/
def Memory.writeBytes (m : Memory) (a : Nat) : List Byte → Memory
  | [] => m
  | b :: bs => Memory.writeBytes (m.write a b) (a + 1) bs

/-- Some byte of the `n` from `a` lies above `0xFFF` (R41, R42, R52); with `n = 0` there is no byte. -/
def outsideMem (a n : Nat) : Bool := decide (0 < n ∧ 0xFFF < a + (n - 1))

/-- `MemRead` of the `n` bytes from `a`: all of them, or none where one is out of range (R41, R162). -/
def State.load (s : State) (a n : Nat) : Option (List Byte) :=
  if outsideMem a n then none else some (s.mem.readBytes a n)

/-- The memory replaced by one with the bytes stored from `a`. -/
def State.poke (s : State) (a : Nat) (bs : List Byte) : State := { s with mem := s.mem.writeBytes a bs }

/-- `MemWrite` of the bytes from `a`: all of them, or none where one is out of range (R42, R162). -/
def State.store (s : State) (a : Nat) (bs : List Byte) : Option State :=
  if outsideMem a bs.length then none else some (s.poke a bs)

/-! ## The return stack (R15, R16, R54) -/

/-- The push of R82: the word into slot `SP`, then `SP + 1`; none where the stack is full. -/
def State.push (s : State) (w : Word) : Option State :=
  if h : s.sp.val < 16 then
    some { s with stack := s.stack.set s.sp.val w h, sp := ⟨s.sp.val + 1, Nat.succ_lt_succ h⟩ }
  else none

/-- The pop of R80: `SP - 1` and the word in the slot it then names, which keeps its value (R16); none where the stack is empty. -/
def State.pop (s : State) : Option (Word × State) :=
  match s.sp with
  | ⟨0, _⟩ => none
  | ⟨k + 1, h⟩ => some (s.stack[k]'(Nat.lt_of_succ_lt_succ h), { s with sp := ⟨k, Nat.lt_of_succ_lt h⟩ })

/-! ## The display (R53) -/

/-- `Pix(x, y)`, the bit `x + 64*y` (R53). -/
def State.pix (s : State) (x y : Nat) : Bool := s.disp.getLsbD (x + 64 * y)

/-- A pixel replaced by its XOR with 1 (R53). -/
def flipPixel (d : Display) (k : Nat) : Display := d ^^^ BitVec.twoPow 2048 k

/-- The draw loop of R121 over the pixels of the set sprite bits: flip each, and report whether one was 1 before. -/
def xorPixels (d : Display) (hit : Bool) : List Nat → Display × Bool
  | [] => (d, hit)
  | k :: ks => xorPixels (flipPixel d k) (hit || d.getLsbD k) ks

/-! ## Inputs and events (R151, R152) -/

/-- `emit e` (R151). -/
def State.emit (s : State) (e : Event) : State := { s with event := some e }

/-- The input `rnd` of this step (R152): a free value (log 1). -/
def State.rndInput (s : State) : Byte := Config.randomByte s.draws

/-- The input `rnd` has been sampled: the next `Cxnn` sees another byte, unrelated to it (R101; log 1). -/
def State.sampled (s : State) : State := { s with draws := s.draws + 1 }

/-! ## Taking a fault, and the way out (R160 to R164) -/

/-- The code held by `FAULT_CAUSE` (R160). -/
def FaultCause.code : FaultCause → BitVec 3
  | .fetchOutOfRange => 1
  | .stackOverflow => 2
  | .stackUnderflow => 3
  | .memOutOfRange => 4
  | .displayOutOfRange => 5
  | .keyIndexOutOfRange => 6

/-- `raise Fault(cause)` (R161): the three fault registers, and nothing else (R162). -/
def State.raise (s : State) (cause : FaultCause) (ins : Word) : State :=
  { s with fault := true, faultCause := cause.code, faultIns := ins }

/-- RESET (R190), the only way out of a fault (R164): every piece of R10 at its value of R26, no event. What the environment will
present (the bytes of `rnd`, the host's commands) is not the core's and stays. -/
def State.resetCore (s : State) : State := { State.reset with draws := s.draws, script := s.script }

/-- The answer of an instruction whose condition of R160 holds: the fault is taken, with the instruction's own word (R22, R161). -/
def raiseFor (i : Instr) (cause : FaultCause) (s : State) : Result := .next (s.raise cause (encode i))

/-! ## Level outputs (R151, R171) -/

/-- `tone`: 1 exactly when `ST > 0` (R171). -/
def State.tone (s : State) : Bool := decide (0 < s.st.toNat)

end Sys2Proof.Machine
end

