-- ==== Sys2Proof/Machine/Operands.lean ====
section
/-! DEFINITION. Every operand form of the spec: the effective address `I + k`, key indices, glyph addresses, decimal digits,
register ranges, sprite cells, the key `Fx0A` takes. -/

namespace Sys2Proof.Machine

/-- The effective address `I + k`, unbounded (R52). -/
def State.ea (s : State) (k : Nat) : Nat := s.i.toNat + k

/-- `V[0]..V[x]`, ascending (R114). -/
def State.regsUpTo (s : State) (x : Reg) : List Byte :=
  (List.range (x.toNat + 1)).map (fun k => s.readV (BitVec.ofNat 4 k))

/-- The three decimal digits of a byte, hundreds first (R113). -/
def bcdDigits (b : Byte) : List Byte :=
  [BitVec.ofNat 8 (b.toNat / 100), BitVec.ofNat 8 (b.toNat / 10 % 10), BitVec.ofNat 8 (b.toNat % 10)]

/-- `FX29_BASE + 5 * V[x]` (R112), the whole byte multiplied. -/
def glyphAddress (base : Word) (b : Byte) : Word := BitVec.ofNat 16 (base.toNat + 5 * b.toNat)

/-- The key index in `V[x]`: none above 15 (R130, R131). -/
def State.keyIndex (s : State) (x : Reg) : Option Nat :=
  if 15 < (s.readV x).toNat then none else some (s.readV x).toNat

/-- The indices of the keys that are down, ascending (R21). -/
def keysDown (keys : Keys) : List Nat := (List.range 16).filter (fun k => keys.getLsbD k)

/-- `KEY_SELECT` (R132, D14): the index of some key that is down, which one being the free value `Config.keyChoice` (log 2). -/
def keySelect (keys : Keys) : Byte :=
  BitVec.ofNat 8 ((keysDown keys).getD (Config.keyChoice keys % (keysDown keys).length) 0)

/-! ## Sprite cells (R121, R122) -/

/-- Bit `(r, c)` of a sprite row: bit 7 is column offset 0 (R44, R121). -/
def spriteBit (row : Byte) (c : Nat) : Bool := (row >>> (7 - c)).getLsbD 0

/-- The display cells (column, row) of the set bits of one sprite row. -/
def rowCells (x0 y : Nat) (row : Byte) : List (Nat × Nat) :=
  ((List.range 8).filter (spriteBit row)).map (fun c => (x0 + c, y))

/-- The display cells of the set bits of a sprite, row 0 at `y` (R121). -/
def spriteCells (x0 : Nat) : Nat → List Byte → List (Nat × Nat)
  | _, [] => []
  | y, row :: rows => rowCells x0 y row ++ spriteCells x0 (y + 1) rows

/-- Column at most 63 and row at most 31 (R53). -/
def onGrid (p : Nat × Nat) : Bool := decide (p.1 ≤ 63 ∧ p.2 ≤ 31)

/-- The linear index of the pixel a cell addresses: as it stands under `reject` (R121), each coordinate wrapped under `wrap` (R122). -/
def pixelIndex : Config.SpriteOob → Nat × Nat → Nat
  | .reject, p => p.1 + 64 * p.2
  | .wrap, p => p.1 % 64 + 64 * (p.2 % 32)

/-- The sprite cells cannot be drawn: under `reject`, one of them is off the grid (R121); under `wrap`, never (R122). -/
def offDisplay : Config.SpriteOob → List (Nat × Nat) → Bool
  | .reject, cells => cells.any (fun p => !onGrid p)
  | .wrap, _ => false

/-- The sprite XOR-and-collision engine (R121, R122): none where the sprite is rejected, else the display and the collision. -/
def drawSprite (oob : Config.SpriteOob) (x0 y0 : Nat) (rows : List Byte) (d : Display) : Option (Display × Bool) :=
  if offDisplay oob (spriteCells x0 y0 rows) then none
  else some (xorPixels d false ((spriteCells x0 y0 rows).map (pixelIndex oob)))

end Sys2Proof.Machine
end

