-- ==== Sys2Proof/Machine/Alu.lean ====
section
/-! DEFINITION. Register loads, arithmetic, logic, shifts, random (spec/41_alu.md). The statements of a rule run in the order
written, each seeing the register writes before it (R103). UNVERIFIED where `VF` is an operand (the spec's decision D9), unsafe: log 7. -/

namespace Sys2Proof.Machine

/-- The shape of the loads and the flagless operations: one register written, then `pc + 2` (R69, R102). -/
def State.result (s : State) (x : Reg) (b : Byte) : Result := .next (s.writeV x b).advance

/-- `6xnn` LD (R90). -/
def execLdImm (x : Reg) (nn : Byte) (s : State) : Result := s.result x nn

/-- `7xnn` ADD, no flag (R91). -/
def execAddImm (x : Reg) (nn : Byte) (s : State) : Result := s.result x (s.readV x + nn)

/-- `8xy0` LD (R92). -/
def execLdReg (x y : Reg) (s : State) : Result := s.result x (s.readV y)

/-- `8xy1` OR (R93). -/
def execOrReg (x y : Reg) (s : State) : Result := s.result x (s.readV x ||| s.readV y)

/-- `8xy2` AND (R94). -/
def execAndReg (x y : Reg) (s : State) : Result := s.result x (s.readV x &&& s.readV y)

/-- `8xy3` XOR (R95). -/
def execXorReg (x y : Reg) (s : State) : Result := s.result x (s.readV x ^^^ s.readV y)

/-- `8xy4` ADD (R96): the sum is taken before the carry is written. -/
def execAddReg (x y : Reg) (s : State) : Result :=
  let sum := s.readV x + s.readV y
  let t := s.writeV VF (carryFlag (s.readV x) (s.readV y))
  t.result x sum

/-- `8xy5` SUB (R97): the operands of the difference are read after the flag is written. -/
def execSub (x y : Reg) (s : State) : Result :=
  let t := s.writeV VF (greaterFlag (s.readV x) (s.readV y))
  t.result x (t.readV x - t.readV y)

/-- `8xy6` SHR (R98): the operand is read again after the flag is written; `y` is ignored. -/
def execShr (x _y : Reg) (s : State) : Result :=
  let t := s.writeV VF (lowBitFlag (s.readV x))
  t.result x (t.readV x >>> 1)

/-- `8xy7` SUBN (R99): the operands of the difference are read after the flag is written. -/
def execSubn (x y : Reg) (s : State) : Result :=
  let t := s.writeV VF (greaterFlag (s.readV y) (s.readV x))
  t.result x (t.readV y - t.readV x)

/-- `8xyE` SHL (R100): the operand is read again after the flag is written; `y` is ignored. -/
def execShl (x _y : Reg) (s : State) : Result :=
  let t := s.writeV VF (highBitFlag (s.readV x))
  t.result x (t.readV x <<< 1)

/-- RND with the input byte as an argument (R101). -/
def rndWith (rnd : Byte) (x : Reg) (nn : Byte) (s : State) : Result := s.result x (rnd &&& nn)

/-- `Cxnn` RND (R101): the input byte is the free value of log 1, and has then been sampled. -/
def execRnd (x : Reg) (nn : Byte) (s : State) : Result := rndWith s.rndInput x nn s.sampled

end Sys2Proof.Machine
end

