-- ==== Sys2Proof/Machine/Display.lean ====
section
/-! DEFINITION. Display clear and the sprite XOR-collision engine (spec/43_display.md). -/

namespace Sys2Proof.Machine

/-- `00E0` CLS (R120). -/
def execCls (s : State) : Result := .next (s.setDisp 0).advance

/-- DRW under a given `SPRITE_OOB` (R121, R122). The coordinates are sampled before `VF` is written: UNVERIFIED where `x` or `y`
is 15 (the spec's decision D10), unsafe: log 8. The memory test comes before the display test (R165, D30). -/
def drwWith (oob : Config.SpriteOob) (x y : Reg) (n : Nibble) (s : State) : Result :=
  match s.load (s.ea 0) n.toNat with
  | none => raiseFor (.drw x y n) .memOutOfRange s
  | some rows =>
    match drawSprite oob (s.readV x).toNat (s.readV y).toNat rows s.disp with
    | none => raiseFor (.drw x y n) .displayOutOfRange s
    | some (d, hit) => .next ((s.setDisp d).writeV VF (collisionFlag hit)).advance

/-- `Dxyn` DRW under the value of `SPRITE_OOB` the spec takes (R121). -/
def execDrw (x y : Reg) (n : Nibble) (s : State) : Result := drwWith Config.spriteOob x y n s

end Sys2Proof.Machine
end

