-- ==== Sys2Proof/Machine/Flow.lean ====
section
/-! DEFINITION. Control transfer and conditional skips (spec/40_flow.md). -/

namespace Sys2Proof.Machine

/-- `00EE` RET (R80): the popped word plus 2; STACK_UNDERFLOW on an empty stack. -/
def execRet (s : State) : Result :=
  match s.pop with
  | none => raiseFor .ret .stackUnderflow s
  | some (w, t) => .next (t.setPc (w + 2))

/-- `1nnn` JP (R81). -/
def execJp (nnn : Addr) (s : State) : Result := .next (s.setPc (nnn.setWidth 16))

/-- `2nnn` CALL (R82): pushes its own address; STACK_OVERFLOW on a full stack. -/
def execCall (nnn : Addr) (s : State) : Result :=
  match s.push s.pc with
  | none => raiseFor (.call nnn) .stackOverflow s
  | some t => .next (t.setPc (nnn.setWidth 16))

/-- `Bnnn` JP V0 (R83): not masked. -/
def execJpV0 (nnn : Addr) (s : State) : Result := .next (s.setPc (nnn.setWidth 16 + (s.readV 0).setWidth 16))

/-- `3xnn` SE (R84). -/
def execSeImm (x : Reg) (nn : Byte) (s : State) : Result := .next (s.skipIf (s.readV x == nn))

/-- `4xnn` SNE (R85). -/
def execSneImm (x : Reg) (nn : Byte) (s : State) : Result := .next (s.skipIf (s.readV x != nn))

/-- `5xy0` SE (R86). -/
def execSeReg (x y : Reg) (s : State) : Result := .next (s.skipIf (s.readV x == s.readV y))

/-- `9xy0` SNE (R87). -/
def execSneReg (x y : Reg) (s : State) : Result := .next (s.skipIf (s.readV x != s.readV y))

end Sys2Proof.Machine
end

