-- ==== Sys2Proof/Machine/IndexMem.lean ====
section
/-! DEFINITION. The address register, loads and stores (spec/42_index_memory.md). -/

namespace Sys2Proof.Machine

/-- `Annn` LD I (R110). -/
def execLdI (nnn : Addr) (s : State) : Result := .next (s.setI (nnn.setWidth 16)).advance

/-- `Fx1E` ADD I (R111): modulo 65536, no flag, no mask. -/
def execAddI (x : Reg) (s : State) : Result := .next (s.setI (s.i + (s.readV x).setWidth 16)).advance

/-- `Fx29` LD F (R112), under the parameter `FX29_BASE`. -/
def execLdF (x : Reg) (s : State) : Result := .next (s.setI (glyphAddress Config.fx29Base (s.readV x))).advance

/-- `Fx33` LD B (R113): three digits at `I`, `I + 1`, `I + 2`; `I` is kept. -/
def execLdB (x : Reg) (s : State) : Result :=
  match s.store (s.ea 0) (bcdDigits (s.readV x)) with
  | none => raiseFor (.ldB x) .memOutOfRange s
  | some t => .next t.advance

/-- `Fx55` LD [I], Vx (R114): `V[0]..V[x]` stored from `I`, then `I + x + 1`. -/
def execStRegs (x : Reg) (s : State) : Result :=
  match s.store (s.ea 0) (s.regsUpTo x) with
  | none => raiseFor (.stRegs x) .memOutOfRange s
  | some t => .next (t.setI (BitVec.ofNat 16 (s.ea (x.toNat + 1)))).advance

/-- `Fx65` LD Vx, [I] (R115): `V[0]..V[x]` loaded from `I`, then `I + x + 1`. -/
def execLdRegs (x : Reg) (s : State) : Result :=
  match s.load (s.ea 0) (x.toNat + 1) with
  | none => raiseFor (.ldRegs x) .memOutOfRange s
  | some bs => .next ((s.writeVs 0 bs).setI (BitVec.ofNat 16 (s.ea (x.toNat + 1)))).advance

end Sys2Proof.Machine
end

