-- ==== Sys2Proof/Machine/KeysTimers.lean ====
section
/-! DEFINITION. Key and timer instructions (spec/44_keys_timers.md). -/

namespace Sys2Proof.Machine

/-- `Ex9E` SKP (R130): KEY_INDEX_OUT_OF_RANGE when `V[x] > 15`. -/
def execSkp (x : Reg) (s : State) : Result :=
  match s.keyIndex x with
  | none => raiseFor (.skp x) .keyIndexOutOfRange s
  | some k => .next (s.skipIf (s.keyDown k))

/-- `ExA1` SKNP (R131): KEY_INDEX_OUT_OF_RANGE when `V[x] > 15`. -/
def execSknp (x : Reg) (s : State) : Result :=
  match s.keyIndex x with
  | none => raiseFor (.sknp x) .keyIndexOutOfRange s
  | some k => .next (s.skipIf (!s.keyDown k))

/-- `Fx07` LD Vx, DT (R133). -/
def execLdVxDT (x : Reg) (s : State) : Result := .next (s.writeV x s.dt).advance

/-- `Fx0A` LD Vx, K (R132): with no key down only the event `key_wait`, the pc kept; else the index of some key that is down. The
latch is read by level and not changed: UNVERIFIED (the spec's decision D16), unsafe: log 20. -/
def execLdVxK (x : Reg) (s : State) : Result :=
  if s.keys = 0 then .next (s.emit .keyWait) else .next (s.writeV x (keySelect s.keys)).advance

/-- `Fx15` LD DT, Vx (R134). -/
def execLdDTVx (x : Reg) (s : State) : Result := .next (s.setDT (s.readV x)).advance

/-- `Fx18` LD ST, Vx (R135). -/
def execLdSTVx (x : Reg) (s : State) : Result := .next (s.setST (s.readV x)).advance

end Sys2Proof.Machine
end

