-- ==== Sys2Proof/Machine/Commands.lean ====
section
/-! DEFINITION. The five commands of the host port (spec/46_host_commands.md, spec/60_exceptions.md rule R170), the fetch (R60), and
the step of an unmatched word (spec/45_unmatched.md). -/

namespace Sys2Proof.Machine

/-- The fetch (R60): the big-endian word at `PC`, none where `PC > 0xFFE`. It changes nothing. -/
def State.fetch (s : State) : Option Word :=
  if outsideMem s.pc.toNat 2 then none else some (wordOfBytes (s.mem.read s.pc.toNat) (s.mem.read (s.pc.toNat + 1)))

/-- An unmatched word: the event and `pc + 2` (R140). -/
def execUnmatched (ins : Word) (s : State) : Result := .next (s.emit (.unknownOp ins)).advance

/-- What a STEP does with the word it fetched (R68 steps 3 to 6). -/
def runWord (ins : Word) (s : State) : Result :=
  match decodeWord ins with
  | .ok i => exec i s
  | .error _ => execUnmatched ins s

/-- STEP (R68, R146, R163): nothing while a fault is latched; FETCH_OUT_OF_RANGE with `FAULT_INS = 0` where the fetch fails (R22). -/
def stepCommand (s : State) : Result :=
  if s.fault then .next s
  else
    match s.fetch with
    | none => .next (s.raise .fetchOutOfRange 0)
    | some ins => runWord ins s

/-- A timer counts down towards 0 and stays there (R170). -/
def countdown (b : Byte) : Byte := if b = 0 then 0 else b - 1

/-- The event of a TICK that finds the sound timer at `st` (R170). -/
def toneEvent (st : Byte) : Option Event :=
  if st = 0 then none else if countdown st = 0 then some .toneOff else some .toneOn

/-- TICK (R147, R170). -/
def tickCommand (s : State) : State := { s with dt := countdown s.dt, st := countdown s.st, event := toneEvent s.st }

/-- LOAD_PROGRAM (R149): all the bytes from `0x200`, or the event `program_too_large` and no byte. -/
def loadProgram (bytes : List Byte) (s : State) : State :=
  if Config.maxProgLen < bytes.length then s.emit .programTooLarge else s.poke Config.progBase bytes

/-- The command the host presents now: the first of its script, or STEP where the script is at its end (R145; log 10). -/
def State.nextCommand (s : State) : Command := s.script.headD .step

/-- The state as a command finds it: the command taken off the script, the event of the command before it gone (R145, R151). -/
def State.accept (s : State) : State := { s with event := none, script := s.script.tail }

/-- One command, one transition (R145). -/
def perform : Command → State → Result
  | .reset, s => .next s.resetCore
  | .loadProgram bytes, s => .next (loadProgram bytes s)
  | .step, s => stepCommand s
  | .tick, s => .next (tickCommand s)
  | .setKey k pressed, s => .next (s.setKey k pressed)

/-- A word put where the next STEP fetches, with all the fetch needs: no fault latched and a STEP as the next command (R68; log 13).
Where `PC > 0xFFE` there is no such place and nothing changes. -/
def State.placeWord (s : State) (ins : Word) : State :=
  if outsideMem s.pc.toNat 2 then s
  else { s.poke s.pc.toNat (bytesOfWord ins) with fault := false, faultCause := 0, faultIns := 0, script := [] }

end Sys2Proof.Machine
end

