-- ==== Sys2Proof/Machine/Step.lean ====
section
/-! DEFINITION. One step of the machine: the next command of the host port (spec/46_host_commands.md rule R145). -/

namespace Sys2Proof.Machine

/-- One command is presented and performed (R145). With no script that is one STEP. -/
def step (s : State) : Host.Outcome State Fault Refusal := perform s.nextCommand s.accept

/-- `s` with an instruction of the opcode table stored where `step` fetches its next instruction. -/
def State.withFetchWord (s : State) (nbits w : Nat) : State := s.placeWord (tableWord nbits w)

end Sys2Proof.Machine
end

