-- ==== Sys2Proof/Safety.lean ====
section
/-! DEFINITION. What counts as a safe state and as the end of a run, in the terms statements use: the representation invariants
(spec/10_state.md rules R14, R22, R25), the fault conditions of spec/60_exceptions.md rule R160 as its table gives them, and the
finished program of spec/46_host_commands.md rule R154. -/

namespace Sys2Proof.Machine

/-- The pixels a sprite's set bits fall on are outside the grid somewhere (R121, the DISPLAY_OUT_OF_RANGE condition): for some row `r`
below `n` and column offset `c` below 8, bit `7 - c` of the byte at `I + r` is 1 and column `V[x] + c > 63` or row `V[y] + r > 31`. -/
def spriteLeavesGrid (x y : Reg) (n : Nibble) (s : State) : Prop :=
  ∃ r c : Nat, r < n.toNat ∧ c < 8 ∧ (s.mem.read (s.i.toNat + r)).getLsbD (7 - c) = true ∧
    (63 < (s.readV x).toNat + c ∨ 31 < (s.readV y).toNat + r)

/-- The table of R160 for the execute stage: the instruction raises that cause on that state. -/
def faultCondition (i : Instr) (s : State) : FaultCause → Prop
  | .fetchOutOfRange => False
  | .stackOverflow => (∃ nnn, i = .call nnn) ∧ s.sp.val = 16
  | .stackUnderflow => i = .ret ∧ s.sp.val = 0
  | .memOutOfRange =>
    (∃ x y n, i = .drw x y n ∧ 0 < n.toNat ∧ 0xFFF < s.i.toNat + n.toNat - 1) ∨
    (∃ x, i = .ldB x ∧ 0xFFF < s.i.toNat + 2) ∨
    (∃ x, (i = .stRegs x ∨ i = .ldRegs x) ∧ 0xFFF < s.i.toNat + x.toNat)
  | .displayOutOfRange =>
    ∃ x y n, i = .drw x y n ∧ ¬ (0 < n.toNat ∧ 0xFFF < s.i.toNat + n.toNat - 1) ∧ spriteLeavesGrid x y n s
  | .keyIndexOutOfRange => ∃ x, (i = .skp x ∨ i = .sknp x) ∧ 15 < (s.readV x).toNat

/-- The fault registers agree with each other (R22, R160): no cause and no word while no fault is latched; a code from 1 to 6 while
one is, the word being 0 and `PC` unfetchable where the fetch itself faulted. -/
def State.faultRegsAgree (s : State) : Prop :=
  (s.fault = false → s.faultCause = 0 ∧ s.faultIns = 0) ∧
  (s.fault = true → 1 ≤ s.faultCause.toNat ∧ s.faultCause.toNat ≤ 6 ∧
    (s.faultCause = 1 → s.faultIns = 0 ∧ 0xFFE < s.pc.toNat))

/-- Every return address on the stack is the address of an instruction that was fetched (R80, R82). -/
def State.stackFetchable (s : State) : Prop :=
  ∀ (k : Nat) (h : k < 16), k < s.sp.val → (s.stack[k]).toNat ≤ 0xFFE

/-- The invariants of the machine: the memory canonical (every address inside `MEM`), the fault registers in agreement (R22), `PC`
in `0..0x10FE` (R14, R23), the live return addresses fetchable (R80). The other ranges of R25 are the types'. -/
def State.Inv (s : State) : Prop :=
  s.mem.wf ∧ s.faultRegsAgree ∧ s.pc.toNat ≤ 0x10FE ∧ s.stackFetchable

/-- A finished program (R154): no fault, and `PC` at a jump to itself. -/
def State.finished (s : State) : Prop :=
  s.fault = false ∧ ∃ nnn : Addr, s.pc = nnn.setWidth 16 ∧ s.fetch = some (encode (.jp nnn))

/-- A safe state: no fault is latched (R163: a faulted state is a program gone wrong). -/
def State.safe (s : State) : Prop := s.fault = false

end Sys2Proof.Machine
end

