-- ==== Sys2Proof/Certificates/Slice0/Obligations.lean ====
section
/-! DEFINITION. The statements for the provers, from the numbered rules of spec/. The frame of an instruction is written
`t = { s with v := t.v, pc := t.pc }`: every field of the state but those named is as before, every byte of memory included. -/

namespace Sys2Proof.Claim

open Sys2Proof.Machine

/-- The word of value `n` is the encoding of the instruction: it decodes to it and is what the encoder gives. -/
def encodedAs (n : Nat) (i : Instr) : Prop := decodeWord (BitVec.ofNat 16 n) = .ok i ∧ encode i = BitVec.ofNat 16 n

/-- The state after `raise Fault(code)` with the word `w`: the three fault registers and nothing else (R161, R162). -/
def faulted (s : State) (code : BitVec 3) (w : Word) : State := { s with fault := true, faultCause := code, faultIns := w }

/-- Some set bit of the sprite falls on the pixel (`col`, `row`), coordinates as they stand (R121). -/
def spriteCovers (x y : Reg) (n : Nibble) (s : State) (col row : Nat) : Prop :=
  ∃ r c : Nat, r < n.toNat ∧ c < 8 ∧ (s.mem.read (s.i.toNat + r)).getLsbD (7 - c) = true ∧
    (s.readV x).toNat + c = col ∧ (s.readV y).toNat + r = row

/-- Some set bit of the sprite falls on the pixel (`col`, `row`), each coordinate wrapped by itself (R122). -/
def spriteCoversWrapped (x y : Reg) (n : Nibble) (s : State) (col row : Nat) : Prop :=
  ∃ r c : Nat, r < n.toNat ∧ c < 8 ∧ (s.mem.read (s.i.toNat + r)).getLsbD (7 - c) = true ∧
    ((s.readV x).toNat + c) % 64 = col ∧ ((s.readV y).toNat + r) % 32 = row

/-- The sprite of `DRW` has a byte above `0xFFF` (R121, R160). -/
def spriteOutsideMem (n : Nibble) (s : State) : Prop := 0 < n.toNat ∧ 0xFFF < s.i.toNat + n.toNat - 1

/-- What a `DRW` that is not rejected leaves, `covers` saying which pixels its set bits fall on (R121, R122). -/
def drawn (covers : Nat → Nat → Prop) (s t : State) : Prop :=
  t = { s with v := t.v, disp := t.disp, pc := s.pc + 2 } ∧
  (∀ col row : Nat, col < 64 → row < 32 →
    (covers col row → t.pix col row = !s.pix col row) ∧ (¬ covers col row → t.pix col row = s.pix col row)) ∧
  (∀ r : Reg, r ≠ VF → t.readV r = s.readV r) ∧
  ((∃ col row : Nat, col < 64 ∧ row < 32 ∧ covers col row ∧ s.pix col row = true) → t.readV VF = 1) ∧
  ((¬ ∃ col row : Nat, col < 64 ∧ row < 32 ∧ covers col row ∧ s.pix col row = true) → t.readV VF = 0)

/-- Which general registers an instruction may write: the table of 10_state.md section 2, the flag writers of R12 among them. -/
def mayWriteV (r : Reg) : Instr → Prop
  | .ldImm x _ | .addImm x _ | .rnd x _ | .ldVxDT x | .ldVxK x => r = x
  | .ldReg x _ | .orReg x _ | .andReg x _ | .xorReg x _ => r = x
  | .addReg x _ | .sub x _ | .shr x _ | .subn x _ | .shl x _ => r = x ∨ r = VF
  | .drw _ _ _ => r = VF
  | .ldRegs x => r.toNat ≤ x.toNat
  | .cls | .ret | .jp _ | .call _ | .jpV0 _ | .seImm _ _ | .sneImm _ _ | .seReg _ _ | .sneReg _ _ | .ldI _ | .skp _ | .sknp _
  | .ldDTVx _ | .ldSTVx _ | .addI _ | .ldF _ | .ldB _ | .stRegs _ => False

/-- The state with every latched fault taken away, to compare a faulted core with one that is not (R153). -/
def withoutFault (s : State) : State := { s with fault := false, faultCause := 0, faultIns := 0 }

end Sys2Proof.Claim

open Sys2Proof Sys2Proof.Machine Sys2Proof.Claim

/-! ## Encoding -/

/-- R64: the row with `(ins & mask) == match` is selected, the rows are pairwise disjoint, a word no row matches is unmatched, and the
fixed nibbles of `5xy0`, `9xy0`, `00E0`, `00EE` must match. -/
def Obligations.OpcodeMapSelectsByMaskAndMatch : Prop :=
  (opcodeTable true).length = 34 ∧
  (opcodeTable true).Pairwise (fun p q => ∀ w : Word, ¬ (w &&& p.mask = p.pat ∧ w &&& q.mask = q.pat)) ∧
  (∀ (w : Word) (r : OpRow), r ∈ opcodeTable true → w &&& r.mask = r.pat → decodeWord w = .ok (r.build w)) ∧
  (∀ w : Word, (∀ r ∈ opcodeTable true, w &&& r.mask ≠ r.pat) → decodeWord w = .error (.unmatched w)) ∧
  (∀ (w : Word) (x y : Reg), (decodeWord w = .ok (.seReg x y) ∨ decodeWord w = .ok (.sneReg x y)) → w.toNat % 16 = 0) ∧
  (∀ w : Word, decodeWord w = .ok .cls ↔ w = 0x00E0) ∧
  (∀ w : Word, decodeWord w = .ok .ret ↔ w = 0x00EE)

/-- Decoding an encoded instruction gives it back, whatever its operands and whatever bytes follow it. -/
def Obligations.EveryInstructionDecodesFromItsEncoding : Prop :=
  ∀ (i : Instr) (rest : List Byte),
    decodeWord (encode i) = .ok i ∧ decode (bytesOfWord (encode i) ++ rest) = .ok (i, rest)

/-- Encoding a decoded word gives it back: no bit of a word is dropped, and no two words decode to one instruction. -/
def Obligations.EncodingADecodedWordGivesItBack : Prop :=
  ∀ (w : Word) (i : Instr), decodeWord w = .ok i → encode i = w

/-- The word of every instruction of the opcode map, as a number, from the patterns of R65. -/
def Obligations.EncodingsAreThePatternsOfTheOpcodeMap : Prop :=
  ∀ (x y : Reg) (n : Nibble) (nn : Byte) (nnn : Addr),
    encodedAs 0x00E0 .cls ∧ encodedAs 0x00EE .ret ∧
    encodedAs (0x1000 + nnn.toNat) (.jp nnn) ∧ encodedAs (0x2000 + nnn.toNat) (.call nnn) ∧
    encodedAs (0x3000 + 256 * x.toNat + nn.toNat) (.seImm x nn) ∧ encodedAs (0x4000 + 256 * x.toNat + nn.toNat) (.sneImm x nn) ∧
    encodedAs (0x5000 + 256 * x.toNat + 16 * y.toNat) (.seReg x y) ∧
    encodedAs (0x6000 + 256 * x.toNat + nn.toNat) (.ldImm x nn) ∧ encodedAs (0x7000 + 256 * x.toNat + nn.toNat) (.addImm x nn) ∧
    encodedAs (0x8000 + 256 * x.toNat + 16 * y.toNat) (.ldReg x y) ∧
    encodedAs (0x8001 + 256 * x.toNat + 16 * y.toNat) (.orReg x y) ∧
    encodedAs (0x8002 + 256 * x.toNat + 16 * y.toNat) (.andReg x y) ∧
    encodedAs (0x8003 + 256 * x.toNat + 16 * y.toNat) (.xorReg x y) ∧
    encodedAs (0x8004 + 256 * x.toNat + 16 * y.toNat) (.addReg x y) ∧
    encodedAs (0x8005 + 256 * x.toNat + 16 * y.toNat) (.sub x y) ∧
    encodedAs (0x8006 + 256 * x.toNat + 16 * y.toNat) (.shr x y) ∧
    encodedAs (0x8007 + 256 * x.toNat + 16 * y.toNat) (.subn x y) ∧
    encodedAs (0x800E + 256 * x.toNat + 16 * y.toNat) (.shl x y) ∧
    encodedAs (0x9000 + 256 * x.toNat + 16 * y.toNat) (.sneReg x y) ∧
    encodedAs (0xA000 + nnn.toNat) (.ldI nnn) ∧ encodedAs (0xB000 + nnn.toNat) (.jpV0 nnn) ∧
    encodedAs (0xC000 + 256 * x.toNat + nn.toNat) (.rnd x nn) ∧
    encodedAs (0xD000 + 256 * x.toNat + 16 * y.toNat + n.toNat) (.drw x y n) ∧
    encodedAs (0xE09E + 256 * x.toNat) (.skp x) ∧ encodedAs (0xE0A1 + 256 * x.toNat) (.sknp x) ∧
    encodedAs (0xF007 + 256 * x.toNat) (.ldVxDT x) ∧ encodedAs (0xF00A + 256 * x.toNat) (.ldVxK x) ∧
    encodedAs (0xF015 + 256 * x.toNat) (.ldDTVx x) ∧ encodedAs (0xF018 + 256 * x.toNat) (.ldSTVx x) ∧
    encodedAs (0xF01E + 256 * x.toNat) (.addI x) ∧ encodedAs (0xF029 + 256 * x.toNat) (.ldF x) ∧
    encodedAs (0xF033 + 256 * x.toNat) (.ldB x) ∧ encodedAs (0xF055 + 256 * x.toNat) (.stRegs x) ∧
    encodedAs (0xF065 + 256 * x.toNat) (.ldRegs x)

/-- The unmatched words are exactly the six families of the table of R66. -/
def Obligations.UnmatchedWordsAreTheSixFamilies : Prop :=
  ∀ w : Word, decodeWord w = .error (.unmatched w) ↔
    (w.toNat / 4096 = 0x0 ∧ w.toNat ≠ 0x00E0 ∧ w.toNat ≠ 0x00EE) ∨
    (w.toNat / 4096 = 0x5 ∧ w.toNat % 16 ≠ 0) ∨
    (w.toNat / 4096 = 0x8 ∧ (8 ≤ w.toNat % 16 ∧ w.toNat % 16 ≠ 0xE)) ∨
    (w.toNat / 4096 = 0x9 ∧ w.toNat % 16 ≠ 0) ∨
    (w.toNat / 4096 = 0xE ∧ w.toNat % 256 ≠ 0x9E ∧ w.toNat % 256 ≠ 0xA1) ∨
    (w.toNat / 4096 = 0xF ∧ w.toNat % 256 ∉ [0x07, 0x0A, 0x15, 0x18, 0x1E, 0x29, 0x33, 0x55, 0x65])

/-- A word of each family, written out from R61 and R65, decodes to the instruction it stands for. -/
def Obligations.WordsOfEachFamilyDecode : Prop :=
  decodeWord 0b0000000011101110 = .ok .ret ∧
  decodeWord 0b0010001100000001 = .ok (.call 0x301) ∧
  decodeWord 0b0011101000101010 = .ok (.seImm 10 0x2A) ∧
  decodeWord 0b1000101010110111 = .ok (.subn 10 11) ∧
  decodeWord 0b1010001011110000 = .ok (.ldI 0x2F0) ∧
  decodeWord 0b1101000100101111 = .ok (.drw 1 2 15) ∧
  decodeWord 0b1110001010011110 = .ok (.skp 2) ∧
  decodeWord 0b1111010101100101 = .ok (.ldRegs 5)

/-! ## The STEP and the commands -/

/-- A step runs the decoded instruction. Where the next command is a STEP (the model's script, log 10), no fault is latched and the two
bytes at `PC` are inside `MEM` and decode to `i`, the step is `exec i`, on the state with the event of the command before gone and the
command taken off the script. -/
def Obligations.StepRunsTheDecodedInstruction : Prop :=
  ∀ (s : State) (i : Instr), s.nextCommand = .step → s.fault = false → s.pc.toNat ≤ 0xFFE →
    decodeWord (wordOfBytes (s.mem.read s.pc.toNat) (s.mem.read (s.pc.toNat + 1))) = .ok i →
    step s = exec i { s with event := none, script := s.script.tail }

/-- R60: every instruction takes exactly two bytes, and the fetch of a STEP. The word is the big-endian one at `PC`, an odd `PC` included;
above `0xFFE` the STEP takes FETCH_OUT_OF_RANGE (the spec's decision D5), with `FAULT_INS = 0`, and nothing else changes. -/
def Obligations.FetchIsBigEndianAndFaultsAboveFFE : Prop :=
  (∀ (bytes rest : List Byte) (i : Instr), decode bytes = .ok (i, rest) → bytes.length = rest.length + 2) ∧
  ∀ s : State, s.fault = false →
    (s.pc.toNat ≤ 0xFFE → ∃ ins : Word, s.fetch = some ins ∧
      ins.toNat = 256 * (s.mem.read s.pc.toNat).toNat + (s.mem.read (s.pc.toNat + 1)).toNat ∧
      (∀ i, decodeWord ins = .ok i → perform .step s = exec i s)) ∧
    (0xFFE < s.pc.toNat → s.fetch = none ∧ perform .step s = .next (faulted s 1 0))

/-- R140: an unmatched word at `PC` raises the event `unknown_op(ins)` and advances `PC` by 2; no register, memory cell, pixel, timer,
key or stack slot changes and no fault is taken. The event output is the field `event` (log 11). -/
def Obligations.UnmatchedWordIsATwoByteNop : Prop :=
  ∀ (s : State) (ins : Word), s.fault = false → s.fetch = some ins →
    (∀ r ∈ opcodeTable true, ins &&& r.mask ≠ r.pat) →
    perform .step s = .next { s with event := some (.unknownOp ins), pc := s.pc + 2 }

/-- The outcomes (a) to (e) of a STEP (46_host_commands.md section 2), and that it never changes `KEYS`. An event is recorded in the
model's own field `event` (DESIGN CHOICE, log 11). Of the input `rnd` this says only that the model's counter `draws` (DESIGN CHOICE,
log 1) advances for no instruction but `Cxnn`; that no other instruction's effect depends on the input is `OnlyRndReadsTheRandomInput`. -/
def Obligations.StepHasExactlyFiveOutcomes : Prop :=
  ∀ s : State, ∃ t : State, perform .step s = .next t ∧ t.keys = s.keys ∧
    ((s.fault = true ∧ t = s) ∨
     (s.fault = false ∧ ∃ (code : BitVec 3) (w : Word), 1 ≤ code.toNat ∧ code.toNat ≤ 6 ∧ t = faulted s code w) ∨
     (s.fault = false ∧ ∃ (ins : Word) (x : Reg), s.fetch = some ins ∧ decodeWord ins = .ok (.ldVxK x) ∧ s.keys = 0 ∧
        t = { s with event := some .keyWait }) ∨
     (s.fault = false ∧ ∃ ins : Word, s.fetch = some ins ∧ decodeWord ins = .error (.unmatched ins) ∧
        t = { s with event := some (.unknownOp ins), pc := s.pc + 2 }) ∨
     (s.fault = false ∧ ∃ (ins : Word) (i : Instr), s.fetch = some ins ∧ decodeWord ins = .ok i ∧ exec i s = .next t ∧
        ¬ ((∃ x, i = .ldVxK x) ∧ s.keys = 0) ∧ t.fault = false ∧ t.event = s.event ∧ ((∀ x nn, i ≠ .rnd x nn) → t.draws = s.draws)))

/-- R153: while a fault is latched STEP does nothing; TICK, SET_KEY and LOAD_PROGRAM act exactly as they do otherwise and leave the
fault registers as they are; RESET leaves the fault state. -/
def Obligations.AFaultedCoreOnlyIgnoresSteps : Prop :=
  ∀ s : State, s.fault = true →
    perform .step s = .next s ∧
    (∀ c : Command, (c = .tick ∨ (∃ k p, c = .setKey k p) ∨ (∃ bs, c = .loadProgram bs)) →
      ∃ t : State, perform c s = .next t ∧ t.fault = true ∧ t.faultCause = s.faultCause ∧ t.faultIns = s.faultIns ∧
        perform c (withoutFault s) = .next (withoutFault t)) ∧
    (∃ t : State, perform .reset s = .next t ∧ t.fault = false ∧ t.faultCause = 0 ∧ t.faultIns = 0)

/-- Every command always completes, in any state: a step of the machine never answers a fault or a refusal of the model. -/
def Obligations.EveryCommandCompletes : Prop :=
  (∀ (c : Command) (s : State), ∃ t : State, perform c s = .next t) ∧ (∀ s : State, ∃ t : State, step s = .next t) ∧
  (∀ (i : Instr) (s : State), ∃ t : State, exec i s = .next t)

/-- Each event is raised only by the command the table of R145 gives it to, and a step with another command leaves none (the field
`event`, log 11; the script, log 10). -/
def Obligations.EventsComeFromTheirCommands : Prop :=
  ∀ s t : State, step s = .next t →
    (∀ ins, t.event = some (.unknownOp ins) → s.nextCommand = .step) ∧
    (t.event = some .keyWait → s.nextCommand = .step ∧ s.keys = 0) ∧
    (t.event = some .programTooLarge → ∃ bs, s.nextCommand = .loadProgram bs ∧ 3583 < bs.length) ∧
    (t.event = some .toneOn → s.nextCommand = .tick ∧ t.st ≠ 0) ∧
    (t.event = some .toneOff → s.nextCommand = .tick ∧ t.st = 0)

/-- An instruction placed where the next step fetches is the one the next step runs (log 13): encoder, memory, fetch and decoder agree
on every instruction. -/
def Obligations.APlacedInstructionRunsNext : Prop :=
  ∀ (s : State) (i : Instr), s.pc.toNat ≤ 0xFFE →
    step (s.withFetchWord 16 (encode i).toNat) = exec i { s.withFetchWord 16 (encode i).toNat with event := none } ∧
    (s.withFetchWord 16 (encode i).toNat).pc = s.pc ∧
    ∀ a : Nat, a ≠ s.pc.toNat → a ≠ s.pc.toNat + 1 → (s.withFetchWord 16 (encode i).toNat).mem.read a = s.mem.read a

/-! ## Faults over all instructions -/

/-- R160, R161, R162: where the table's condition for a cause holds on the state before, the instruction sets the three fault registers
(cause code, its own word) and changes nothing else; where no condition holds, no fault register changes; the fetch of a STEP faults
with cause 1 and the word 0 exactly when `PC > 0xFFE`. -/
def Obligations.FaultsAreThoseOfTheTableAndPrecise : Prop :=
  FaultCause.fetchOutOfRange.code = 1 ∧ FaultCause.stackOverflow.code = 2 ∧ FaultCause.stackUnderflow.code = 3 ∧
  FaultCause.memOutOfRange.code = 4 ∧ FaultCause.displayOutOfRange.code = 5 ∧ FaultCause.keyIndexOutOfRange.code = 6 ∧
  (∀ s : State, s.fault = false →
    ((∃ t : State, perform .step s = .next t ∧ t.fault = true ∧ t.faultCause = 1) ↔ 0xFFE < s.pc.toNat) ∧
    (0xFFE < s.pc.toNat → perform .step s = .next (faulted s 1 0))) ∧
  ∀ (i : Instr) (s : State),
    (∀ cause : FaultCause, faultCondition i s cause → exec i s = .next (faulted s cause.code (encode i))) ∧
    ((∀ cause : FaultCause, ¬ faultCondition i s cause) →
      ∃ t : State, exec i s = .next t ∧ t.fault = s.fault ∧ t.faultCause = s.faultCause ∧ t.faultIns = s.faultIns)

/-! ## Control transfer -/

/-- R80, with its fault on an empty stack (the spec's policy D3); the popped slot keeps its value (D24). -/
def Obligations.RetPopsAndResumesAfterTheCall : Prop :=
  encodedAs 0x00EE .ret ∧ ∀ s : State,
    (s.sp.val = 0 → exec .ret s = .next (faulted s 3 0x00EE)) ∧
    (∀ (k : Nat) (h : k < 16), s.sp.val = k + 1 →
      ∃ t : State, exec .ret s = .next t ∧ t = { s with sp := t.sp, pc := s.stack[k] + 2 } ∧ t.sp.val = k)

/-- R82, with its fault on a full stack (the spec's policy D3). -/
def Obligations.CallPushesItsOwnAddress : Prop :=
  ∀ (nnn : Addr) (s : State), encodedAs (0x2000 + nnn.toNat) (.call nnn) ∧
    (s.sp.val = 16 → exec (.call nnn) s = .next (faulted s 2 (encode (.call nnn)))) ∧
    (s.sp.val < 16 →
      ∃ t : State, exec (.call nnn) s = .next t ∧ t = { s with sp := t.sp, stack := t.stack, pc := t.pc } ∧
        t.sp.val = s.sp.val + 1 ∧ t.pc.toNat = nnn.toNat ∧
        ∀ (k : Nat) (h : k < 16), t.stack[k] = if k = s.sp.val then s.pc else s.stack[k])

/-- A `CALL`, then a `RET` reached with the stack as the `CALL` left it, resumes after the `CALL` with `SP` as it was (§8 of the
source; up to sixteen calls deep). -/
def Obligations.RetUndoesCall : Prop :=
  ∀ (nnn : Addr) (s t u : State), s.sp.val < 16 → exec (.call nnn) s = .next t → u.sp = t.sp → u.stack = t.stack →
    ∃ w : State, exec .ret u = .next w ∧ w.sp = s.sp ∧ w.pc = s.pc + 2 ∧ w.fault = u.fault ∧
      ∀ (k : Nat) (h : k < 16), k ≠ s.sp.val → w.stack[k] = s.stack[k]

/-- R81 and R83: the target is `nnn`, or `nnn + V[0]` not masked; nothing but `PC` changes. -/
def Obligations.JumpsSetPcAlone : Prop :=
  ∀ (nnn : Addr) (s : State), encodedAs (0x1000 + nnn.toNat) (.jp nnn) ∧ encodedAs (0xB000 + nnn.toNat) (.jpV0 nnn) ∧
    (∃ t : State, exec (.jp nnn) s = .next t ∧ t = { s with pc := t.pc } ∧ t.pc.toNat = nnn.toNat) ∧
    (∃ t : State, exec (.jpV0 nnn) s = .next t ∧ t = { s with pc := t.pc } ∧ t.pc.toNat = nnn.toNat + (s.readV 0).toNat)

/-- R84 and R85: only `PC` changes, by 4 or by 2. -/
def Obligations.ByteSkipsCompareAndSkip : Prop :=
  ∀ (x : Reg) (nn : Byte) (s : State),
    encodedAs (0x3000 + 256 * x.toNat + nn.toNat) (.seImm x nn) ∧ encodedAs (0x4000 + 256 * x.toNat + nn.toNat) (.sneImm x nn) ∧
    exec (.seImm x nn) s = .next { s with pc := if s.readV x = nn then s.pc + 4 else s.pc + 2 } ∧
    exec (.sneImm x nn) s = .next { s with pc := if s.readV x ≠ nn then s.pc + 4 else s.pc + 2 }

/-- R86 and R87: only `PC` changes, by 4 or by 2. -/
def Obligations.RegisterSkipsCompareAndSkip : Prop :=
  ∀ (x y : Reg) (s : State),
    encodedAs (0x5000 + 256 * x.toNat + 16 * y.toNat) (.seReg x y) ∧ encodedAs (0x9000 + 256 * x.toNat + 16 * y.toNat) (.sneReg x y) ∧
    exec (.seReg x y) s = .next { s with pc := if s.readV x = s.readV y then s.pc + 4 else s.pc + 2 } ∧
    exec (.sneReg x y) s = .next { s with pc := if s.readV x ≠ s.readV y then s.pc + 4 else s.pc + 2 }

/-! ## Loads, arithmetic, logic, shifts, random -/

/-- R90 and R91: `V[x]` alone changes, `VF` as a plain destination included; ADD has no flag. -/
def Obligations.ImmediateLoadAndAdd : Prop :=
  ∀ (x : Reg) (nn : Byte) (s : State),
    encodedAs (0x6000 + 256 * x.toNat + nn.toNat) (.ldImm x nn) ∧ encodedAs (0x7000 + 256 * x.toNat + nn.toNat) (.addImm x nn) ∧
    (∃ t : State, exec (.ldImm x nn) s = .next t ∧ t = { s with v := t.v, pc := s.pc + 2 } ∧
      t.readV x = nn ∧ ∀ r : Reg, r ≠ x → t.readV r = s.readV r) ∧
    (∃ t : State, exec (.addImm x nn) s = .next t ∧ t = { s with v := t.v, pc := s.pc + 2 } ∧
      (t.readV x).toNat = ((s.readV x).toNat + nn.toNat) % 256 ∧ ∀ r : Reg, r ≠ x → t.readV r = s.readV r)

/-- R92 to R95: `V[x]` alone changes; `VF` is not reset. -/
def Obligations.CopyAndLogicWriteTheDestinationAlone : Prop :=
  ∀ (x y : Reg) (s : State),
    encodedAs (0x8000 + 256 * x.toNat + 16 * y.toNat) (.ldReg x y) ∧ encodedAs (0x8001 + 256 * x.toNat + 16 * y.toNat) (.orReg x y) ∧
    encodedAs (0x8002 + 256 * x.toNat + 16 * y.toNat) (.andReg x y) ∧ encodedAs (0x8003 + 256 * x.toNat + 16 * y.toNat) (.xorReg x y) ∧
    (∃ t : State, exec (.ldReg x y) s = .next t ∧ t = { s with v := t.v, pc := s.pc + 2 } ∧
      t.readV x = s.readV y ∧ ∀ r : Reg, r ≠ x → t.readV r = s.readV r) ∧
    (∃ t : State, exec (.orReg x y) s = .next t ∧ t = { s with v := t.v, pc := s.pc + 2 } ∧
      t.readV x = s.readV x ||| s.readV y ∧ ∀ r : Reg, r ≠ x → t.readV r = s.readV r) ∧
    (∃ t : State, exec (.andReg x y) s = .next t ∧ t = { s with v := t.v, pc := s.pc + 2 } ∧
      t.readV x = s.readV x &&& s.readV y ∧ ∀ r : Reg, r ≠ x → t.readV r = s.readV r) ∧
    (∃ t : State, exec (.xorReg x y) s = .next t ∧ t = { s with v := t.v, pc := s.pc + 2 } ∧
      t.readV x = s.readV x ^^^ s.readV y ∧ ∀ r : Reg, r ≠ x → t.readV r = s.readV r)

/-- R96: for every `x`, `V[x]` ends as the low byte of the sum of the old operands; for `x` not `VF`, `VF` is the carry. -/
def Obligations.AddLeavesSumAndCarry : Prop :=
  ∀ (x y : Reg) (s : State), encodedAs (0x8004 + 256 * x.toNat + 16 * y.toNat) (.addReg x y) ∧
    ∃ t : State, exec (.addReg x y) s = .next t ∧ t = { s with v := t.v, pc := s.pc + 2 } ∧
      (t.readV x).toNat = ((s.readV x).toNat + (s.readV y).toNat) % 256 ∧
      (x ≠ VF → t.readV VF = if 255 < (s.readV x).toNat + (s.readV y).toNat then 1 else 0) ∧
      ∀ r : Reg, r ≠ x → r ≠ VF → t.readV r = s.readV r

/-- R97 and R99 (where `VF` is an operand by the spec's decision D9, log 7): the flag is strict greater-than on the old
operands; the difference is taken modulo 256 from the registers as they are after the flag write (`after r` is register `r`
then), and is written last. -/
def Obligations.SubtractionsFlagStrictlyGreater : Prop :=
  ∀ (x y : Reg) (s : State),
    encodedAs (0x8005 + 256 * x.toNat + 16 * y.toNat) (.sub x y) ∧ encodedAs (0x8007 + 256 * x.toNat + 16 * y.toNat) (.subn x y) ∧
    (∃ t : State, exec (.sub x y) s = .next t ∧ t = { s with v := t.v, pc := s.pc + 2 } ∧
      ∃ after : Reg → Byte, after VF = (if (s.readV y).toNat < (s.readV x).toNat then 1 else 0) ∧
        (∀ r : Reg, r ≠ VF → after r = s.readV r) ∧
        ((t.readV x).toNat : Int) = (((after x).toNat : Int) - ((after y).toNat : Int)) % 256 ∧
        ∀ r : Reg, r ≠ x → t.readV r = after r) ∧
    (∃ t : State, exec (.subn x y) s = .next t ∧ t = { s with v := t.v, pc := s.pc + 2 } ∧
      ∃ after : Reg → Byte, after VF = (if (s.readV x).toNat < (s.readV y).toNat then 1 else 0) ∧
        (∀ r : Reg, r ≠ VF → after r = s.readV r) ∧
        ((t.readV x).toNat : Int) = (((after y).toNat : Int) - ((after x).toNat : Int)) % 256 ∧
        ∀ r : Reg, r ≠ x → t.readV r = after r)

/-- R98 and R100 (where `VF` is an operand by the spec's decision D9, log 7): `VF` is the bit shifted out; `y` is
ignored; the result is taken from `V[x]` as it is after the flag write and is written last. -/
def Obligations.ShiftsMoveByOneAndFlagTheBitShiftedOut : Prop :=
  ∀ (x y : Reg) (s : State),
    encodedAs (0x8006 + 256 * x.toNat + 16 * y.toNat) (.shr x y) ∧ encodedAs (0x800E + 256 * x.toNat + 16 * y.toNat) (.shl x y) ∧
    (∃ t : State, exec (.shr x y) s = .next t ∧ t = { s with v := t.v, pc := s.pc + 2 } ∧
      ∃ after : Reg → Byte, (after VF).toNat = (s.readV x).toNat % 2 ∧ (∀ r : Reg, r ≠ VF → after r = s.readV r) ∧
        (t.readV x).toNat = (after x).toNat / 2 ∧ ∀ r : Reg, r ≠ x → t.readV r = after r) ∧
    (∃ t : State, exec (.shl x y) s = .next t ∧ t = { s with v := t.v, pc := s.pc + 2 } ∧
      ∃ after : Reg → Byte, (after VF).toNat = (s.readV x).toNat / 128 ∧ (∀ r : Reg, r ≠ VF → after r = s.readV r) ∧
        (t.readV x).toNat = (2 * (after x).toNat) % 256 ∧ ∀ r : Reg, r ≠ x → t.readV r = after r)

/-- R103 (the spec's decision D9 on the order of reads and writes, log 7): the complete outcomes of the five flag instructions when `VF`
is an operand, the table row by row. -/
def Obligations.FlagRegisterAsOperand : Prop :=
  ∀ (x y : Reg) (s : State), x ≠ VF → y ≠ VF →
    (∃ t, exec (.addReg VF y) s = .next t ∧ (t.readV VF).toNat = ((s.readV VF).toNat + (s.readV y).toNat) % 256) ∧
    (∃ t, exec (.addReg x VF) s = .next t ∧ (t.readV x).toNat = ((s.readV x).toNat + (s.readV VF).toNat) % 256 ∧
      t.readV VF = if 255 < (s.readV x).toNat + (s.readV VF).toNat then 1 else 0) ∧
    (∃ t, exec (.addReg VF VF) s = .next t ∧ (t.readV VF).toNat = (2 * (s.readV VF).toNat) % 256) ∧
    (∃ t, exec (.sub VF y) s = .next t ∧
      t.readV VF = (if (s.readV y).toNat < (s.readV VF).toNat then 1 else 0) - s.readV y) ∧
    (∃ t, exec (.sub x VF) s = .next t ∧ t.readV VF = (if (s.readV VF).toNat < (s.readV x).toNat then 1 else 0) ∧
      t.readV x = s.readV x - t.readV VF) ∧
    (∃ t, exec (.sub VF VF) s = .next t ∧ t.readV VF = 0) ∧
    (∃ t, exec (.shr VF y) s = .next t ∧ t.readV VF = 0) ∧
    (∃ t, exec (.shr x VF) s = .next t ∧ (t.readV x).toNat = (s.readV x).toNat / 2 ∧
      (t.readV VF).toNat = (s.readV x).toNat % 2) ∧
    (∃ t, exec (.shr VF VF) s = .next t ∧ t.readV VF = 0) ∧
    (∃ t, exec (.subn VF y) s = .next t ∧
      t.readV VF = s.readV y - (if (s.readV VF).toNat < (s.readV y).toNat then 1 else 0)) ∧
    (∃ t, exec (.subn x VF) s = .next t ∧ t.readV VF = (if (s.readV x).toNat < (s.readV VF).toNat then 1 else 0) ∧
      t.readV x = t.readV VF - s.readV x) ∧
    (∃ t, exec (.subn VF VF) s = .next t ∧ t.readV VF = 0) ∧
    (∃ t, exec (.shl VF y) s = .next t ∧ (t.readV VF).toNat = 2 * ((s.readV VF).toNat / 128)) ∧
    (∃ t, exec (.shl x VF) s = .next t ∧ (t.readV x).toNat = (2 * (s.readV x).toNat) % 256 ∧
      (t.readV VF).toNat = (s.readV x).toNat / 128) ∧
    (∃ t, exec (.shl VF VF) s = .next t ∧ (t.readV VF).toNat = 2 * ((s.readV VF).toNat / 128))

/-- RND masks the input byte with `nn`, whatever the byte is: for every input byte through `rndWith`, and for the free value the step
supplies (the model's choice of its form, log 1: `Config.randomByte` at the counter, which then advances). -/
def Obligations.RndMasksAFreeByte : Prop :=
  ∀ (x : Reg) (nn : Byte) (s : State), encodedAs (0xC000 + 256 * x.toNat + nn.toNat) (.rnd x nn) ∧
    (∀ rnd : Byte, ∃ t : State, rndWith rnd x nn s = .next t ∧ t = { s with v := t.v, pc := s.pc + 2 } ∧
      t.readV x = rnd &&& nn ∧ ∀ r : Reg, r ≠ x → t.readV r = s.readV r) ∧
    (∃ t : State, exec (.rnd x nn) s = .next t ∧ t = { s with v := t.v, pc := s.pc + 2, draws := s.draws + 1 } ∧
      t.readV x = Config.randomByte s.draws &&& nn ∧ (∀ b : Nat, nn.getLsbD b = false → (t.readV x).getLsbD b = false) ∧
      ∀ r : Reg, r ≠ x → t.readV r = s.readV r)

/-! ## Address register, loads, stores -/

/-- R110 and R111: `I` takes `nnn`, or grows by `V[x]` modulo 65536 with no flag and no fault. -/
def Obligations.AddressRegisterLoadAndAdd : Prop :=
  ∀ (nnn : Addr) (x : Reg) (s : State), encodedAs (0xA000 + nnn.toNat) (.ldI nnn) ∧ encodedAs (0xF01E + 256 * x.toNat) (.addI x) ∧
    (∃ t : State, exec (.ldI nnn) s = .next t ∧ t = { s with i := t.i, pc := s.pc + 2 } ∧ t.i.toNat = nnn.toNat) ∧
    (∃ t : State, exec (.addI x) s = .next t ∧ t = { s with i := t.i, pc := s.pc + 2 } ∧
      t.i.toNat = (s.i.toNat + (s.readV x).toNat) % 65536)

/-- R112: `I` becomes `FX29_BASE + 5 * V[x]`, the whole byte multiplied, under either documented value of the parameter (the value the
step uses is `Config.fx29Base`, log 3). -/
def Obligations.GlyphAddressIsFiveTimesTheRegister : Prop :=
  ∀ (x : Reg) (s : State), encodedAs (0xF029 + 256 * x.toNat) (.ldF x) ∧
    (∃ t : State, exec (.ldF x) s = .next t ∧ t = { s with i := t.i, pc := s.pc + 2 } ∧
      t.i.toNat = Config.fx29Base.toNat + 5 * (s.readV x).toNat) ∧
    ∀ b : Byte, (glyphAddress 0x0000 b).toNat = 5 * b.toNat ∧ (glyphAddress 0x0050 b).toNat = 0x50 + 5 * b.toNat

/-- R113, with its fault above `0xFFF` and no byte written then (the spec's policy D3). -/
def Obligations.DecimalDigitsAreStored : Prop :=
  ∀ (x : Reg) (s : State), encodedAs (0xF033 + 256 * x.toNat) (.ldB x) ∧
    (0xFFF < s.i.toNat + 2 → exec (.ldB x) s = .next (faulted s 4 (encode (.ldB x)))) ∧
    (s.i.toNat + 2 ≤ 0xFFF → ∃ t : State, exec (.ldB x) s = .next t ∧ t = { s with mem := t.mem, pc := s.pc + 2 } ∧
      (t.mem.read s.i.toNat).toNat = (s.readV x).toNat / 100 ∧
      (t.mem.read (s.i.toNat + 1)).toNat = (s.readV x).toNat / 10 % 10 ∧
      (t.mem.read (s.i.toNat + 2)).toNat = (s.readV x).toNat % 10 ∧
      ∀ a : Nat, (a < s.i.toNat ∨ s.i.toNat + 2 < a) → t.mem.read a = s.mem.read a)

/-- R114, with its fault above `0xFFF`, no byte written and `I` kept then (the spec's policy D3). -/
def Obligations.RegistersAreStoredFromI : Prop :=
  ∀ (x : Reg) (s : State), encodedAs (0xF055 + 256 * x.toNat) (.stRegs x) ∧
    (0xFFF < s.i.toNat + x.toNat → exec (.stRegs x) s = .next (faulted s 4 (encode (.stRegs x)))) ∧
    (s.i.toNat + x.toNat ≤ 0xFFF →
      ∃ t : State, exec (.stRegs x) s = .next t ∧ t = { s with mem := t.mem, i := t.i, pc := s.pc + 2 } ∧
        t.i.toNat = s.i.toNat + x.toNat + 1 ∧
        (∀ r : Reg, r.toNat ≤ x.toNat → t.mem.read (s.i.toNat + r.toNat) = s.readV r) ∧
        ∀ a : Nat, (a < s.i.toNat ∨ s.i.toNat + x.toNat < a) → t.mem.read a = s.mem.read a)

/-- R115, with its fault above `0xFFF`, no register written and `I` kept then (the spec's policy D3). -/
def Obligations.RegistersAreLoadedFromI : Prop :=
  ∀ (x : Reg) (s : State), encodedAs (0xF065 + 256 * x.toNat) (.ldRegs x) ∧
    (0xFFF < s.i.toNat + x.toNat → exec (.ldRegs x) s = .next (faulted s 4 (encode (.ldRegs x)))) ∧
    (s.i.toNat + x.toNat ≤ 0xFFF →
      ∃ t : State, exec (.ldRegs x) s = .next t ∧ t = { s with v := t.v, i := t.i, pc := s.pc + 2 } ∧
        t.i.toNat = s.i.toNat + x.toNat + 1 ∧
        (∀ r : Reg, r.toNat ≤ x.toNat → t.readV r = s.mem.read (s.i.toNat + r.toNat)) ∧
        ∀ r : Reg, x.toNat < r.toNat → t.readV r = s.readV r)

/-- A store into the instruction stream is seen by the next fetch (R51): where `Fx55` stores registers `k` and `k + 1` over the word
after it, the next STEP fetches the word those two registers made. -/
def Obligations.AStoreIsSeenByTheNextFetch : Prop :=
  ∀ (x : Reg) (s t : State) (r r' : Reg), exec (.stRegs x) s = .next t → s.i.toNat + x.toNat ≤ 0xFFF →
    r'.toNat = r.toNat + 1 → r'.toNat ≤ x.toNat → s.i.toNat + r.toNat = s.pc.toNat + 2 →
    t.fetch = some (wordOfBytes (s.readV r) (s.readV r'))

/-! ## Display -/

/-- R120: every pixel is 0 afterwards; nothing else changes. -/
def Obligations.ClsClearsEveryPixel : Prop :=
  encodedAs 0x00E0 .cls ∧ ∀ s : State, ∃ t : State, exec .cls s = .next t ∧ t = { s with disp := t.disp, pc := s.pc + 2 } ∧
    ∀ col row : Nat, col < 64 → row < 32 → t.pix col row = false

/-- R121 under `SPRITE_OOB = reject` (the spec's decision D11, log 4), with the priority of R165 (D30): MEM_OUT_OF_RANGE before
DISPLAY_OUT_OF_RANGE, nothing changed by either; otherwise exactly the pixels under the sprite's set bits flip,
`VF` is 1 iff one of them was 1, the coordinates being those before `VF` is written (D10, log 8). The remark of R121 on
a second draw is not claimed here: log 21. -/
def Obligations.DrwXorsTheSpriteAndReportsCollision : Prop :=
  ∀ (x y : Reg) (n : Nibble) (s : State),
    encodedAs (0xD000 + 256 * x.toNat + 16 * y.toNat + n.toNat) (.drw x y n) ∧
    (spriteOutsideMem n s → exec (.drw x y n) s = .next (faulted s 4 (encode (.drw x y n)))) ∧
    (¬ spriteOutsideMem n s → spriteLeavesGrid x y n s → exec (.drw x y n) s = .next (faulted s 5 (encode (.drw x y n)))) ∧
    (¬ spriteOutsideMem n s → ¬ spriteLeavesGrid x y n s →
      ∃ t : State, exec (.drw x y n) s = .next t ∧ drawn (spriteCovers x y n s) s t)

/-- R122: under `SPRITE_OOB = wrap` the display test is gone and each coordinate of each pixel wraps by itself. -/
def Obligations.DrwUnderWrap : Prop :=
  ∀ (x y : Reg) (n : Nibble) (s : State),
    (spriteOutsideMem n s → drwWith .wrap x y n s = .next (faulted s 4 (encode (.drw x y n)))) ∧
    (¬ spriteOutsideMem n s →
      ∃ t : State, drwWith .wrap x y n s = .next t ∧ drawn (spriteCoversWrapped x y n s) s t)

/-- Within one DRW each pixel is visited at most once, under either value of `SPRITE_OOB`, and every pixel visited is one of the 2048. -/
def Obligations.EachPixelIsVisitedAtMostOnce : Prop :=
  ∀ (x0 y0 : Nat) (rows : List Byte), rows.length ≤ 15 →
    (((spriteCells x0 y0 rows).map (pixelIndex .wrap)).Nodup ∧
      ∀ k ∈ (spriteCells x0 y0 rows).map (pixelIndex .wrap), k < 2048) ∧
    (offDisplay .reject (spriteCells x0 y0 rows) = false →
      ((spriteCells x0 y0 rows).map (pixelIndex .reject)).Nodup ∧
      ∀ k ∈ (spriteCells x0 y0 rows).map (pixelIndex .reject), k < 2048)

/-- Drawing the same sprite twice at the same place restores the display, whatever the display was, and the second draw sets `VF` to 1
iff some pixel under a set sprite bit was clear before the first draw (its XOR-ed self is then set). Only coordinate registers other
than `VF` are covered: with `x` or `y` = 15 the first draw rewrites the coordinate, so the second may be at another place (each draw
by itself is `DrwXorsTheSpriteAndReportsCollision`, for every `x` and `y`). The spec's remark under R121 gives the shorter condition 'iff the sprite contains at least one bit set',
which its own pseudocode does not meet where every pixel under the sprite was already set: log 21. -/
def Obligations.DrawingTwiceRestoresTheDisplay : Prop :=
  ∀ (x y : Reg) (n : Nibble) (s t : State), x ≠ VF → y ≠ VF → s.fault = false →
    exec (.drw x y n) s = .next t → t.fault = false →
    ∃ u : State, exec (.drw x y n) t = .next u ∧ u.fault = false ∧ u.disp = s.disp ∧
      ((∃ col row : Nat, col < 64 ∧ row < 32 ∧ spriteCovers x y n s col row ∧ s.pix col row = false) → u.readV VF = 1) ∧
      ((¬ ∃ col row : Nat, col < 64 ∧ row < 32 ∧ spriteCovers x y n s col row ∧ s.pix col row = false) → u.readV VF = 0)

/-! ## Keys and timers -/

/-- R130 and R131: the level of the latch is tested; a register above 15 faults (the spec's decision D15), not masked. -/
def Obligations.KeySkipsTestTheLatch : Prop :=
  ∀ (x : Reg) (s : State), encodedAs (0xE09E + 256 * x.toNat) (.skp x) ∧ encodedAs (0xE0A1 + 256 * x.toNat) (.sknp x) ∧
    (15 < (s.readV x).toNat → exec (.skp x) s = .next (faulted s 6 (encode (.skp x))) ∧
      exec (.sknp x) s = .next (faulted s 6 (encode (.sknp x)))) ∧
    ((s.readV x).toNat ≤ 15 →
      exec (.skp x) s = .next { s with pc := if s.keys.getLsbD (s.readV x).toNat = true then s.pc + 4 else s.pc + 2 } ∧
      exec (.sknp x) s = .next { s with pc := if s.keys.getLsbD (s.readV x).toNat = false then s.pc + 4 else s.pc + 2 })

/-- R132: with no key down only the event `key_wait` (the field `event`, log 11), `PC` kept; with some key down `V[x]` takes
`KEY_SELECT(KEYS)`, for one function `KEY_SELECT` that gives the index of a key that is down and of which nothing more is known. -/
def Obligations.KeyWaitPollsTheLatch : Prop :=
  ∃ select : Keys → Nat, (∀ keys : Keys, keys ≠ 0 → select keys < 16 ∧ keys.getLsbD (select keys) = true) ∧
    ∀ (x : Reg) (s : State), encodedAs (0xF00A + 256 * x.toNat) (.ldVxK x) ∧
      (s.keys = 0 → exec (.ldVxK x) s = .next { s with event := some .keyWait }) ∧
      (s.keys ≠ 0 → ∃ t : State, exec (.ldVxK x) s = .next t ∧ t = { s with v := t.v, pc := s.pc + 2 } ∧
        (t.readV x).toNat = select s.keys ∧ ∀ r : Reg, r ≠ x → t.readV r = s.readV r)

/-- R133, R134, R135: the timers are read and set; the level `tone` follows `ST` at once. -/
def Obligations.TimerInstructions : Prop :=
  ∀ (x : Reg) (s : State), encodedAs (0xF007 + 256 * x.toNat) (.ldVxDT x) ∧ encodedAs (0xF015 + 256 * x.toNat) (.ldDTVx x) ∧
    encodedAs (0xF018 + 256 * x.toNat) (.ldSTVx x) ∧
    (∃ t : State, exec (.ldVxDT x) s = .next t ∧ t = { s with v := t.v, pc := s.pc + 2 } ∧
      t.readV x = s.dt ∧ ∀ r : Reg, r ≠ x → t.readV r = s.readV r) ∧
    exec (.ldDTVx x) s = .next { s with dt := s.readV x, pc := s.pc + 2 } ∧
    (∃ t : State, exec (.ldSTVx x) s = .next t ∧ t = { s with st := s.readV x, pc := s.pc + 2 } ∧
      (t.tone = true ↔ 0 < (s.readV x).toNat))

/-! ## The other commands -/

/-- R170: one TICK. A timer at 0 stays at 0; the tone events are those of the new value of `ST` (the field `event`, log 11). -/
def Obligations.TickCountsBothTimersDown : Prop :=
  ∀ s : State, ∃ t : State, perform .tick s = .next t ∧ t = { s with dt := t.dt, st := t.st, event := t.event } ∧
    t.dt.toNat = s.dt.toNat - 1 ∧ t.st.toNat = s.st.toNat - 1 ∧
    (s.st.toNat = 0 → t.event = none) ∧ (s.st.toNat = 1 → t.event = some .toneOff) ∧ (2 ≤ s.st.toNat → t.event = some .toneOn)

/-- R148: SET_KEY sets one latch bit and changes nothing else. -/
def Obligations.SetKeySetsOneLatchBit : Prop :=
  ∀ (k : Nibble) (pressed : Bool) (s : State), ∃ t : State, perform (.setKey k pressed) s = .next t ∧ t = { s with keys := t.keys } ∧
    ∀ j : Nat, j < 16 → t.keys.getLsbD j = if j = k.toNat then pressed else s.keys.getLsbD j

/-- R149: LOAD_PROGRAM writes all its bytes from `0x200`, or, above 3583 bytes, none and raises `program_too_large`
(the field `event`, log 11). -/
def Obligations.LoadProgramWritesAllOrNothing : Prop :=
  ∀ (bytes : List Byte) (s : State),
    (3583 < bytes.length → perform (.loadProgram bytes) s = .next { s with event := some .programTooLarge }) ∧
    (bytes.length ≤ 3583 → ∃ t : State, perform (.loadProgram bytes) s = .next t ∧ t = { s with mem := t.mem } ∧
      (∀ (k : Nat) (h : k < bytes.length), t.mem.read (0x200 + k) = bytes[k]) ∧
      ∀ a : Nat, (a < 0x200 ∨ 0x200 + bytes.length ≤ a) → t.mem.read a = s.mem.read a)

/-- R190: RESET, from any state, leaves every piece of the core's state at its reset value, no event (the field `event`,
log 11), and two RESETs equal one. -/
def Obligations.ResetSetsEveryPieceOfState : Prop :=
  ∀ s : State, ∃ t : State, perform .reset s = .next t ∧ perform .reset t = .next t ∧
    (∀ r : Reg, t.readV r = 0) ∧ t.i = 0 ∧ t.pc = 0x200 ∧ t.sp.val = 0 ∧ (∀ (k : Nat) (h : k < 16), t.stack[k] = 0) ∧
    t.dt = 0 ∧ t.st = 0 ∧ t.tone = false ∧
    (∀ k : Nat, k < 80 → t.mem.read (0x050 + k) = Config.fontTable.getD k 0) ∧
    (∀ a : Nat, (a < 0x050 ∨ 0x09F < a) → t.mem.read a = 0) ∧
    (∀ col row : Nat, col < 64 → row < 32 → t.pix col row = false) ∧ (∀ k : Nat, k < 16 → t.keys.getLsbD k = false) ∧
    t.fault = false ∧ t.faultCause = 0 ∧ t.faultIns = 0 ∧ t.event = none

/-! ## Whole-machine rules -/

/-- Which instruction writes which general register (the table of 10_state.md section 2; R12 for `VF`): no instruction changes a
register the table does not give it. -/
def Obligations.OnlyListedInstructionsWriteARegister : Prop :=
  ∀ (i : Instr) (s t : State) (r : Reg), exec i s = .next t → ¬ mayWriteV r i → t.readV r = s.readV r

/-- Which instruction writes which special register: `I`, `SP`, `DT`, `ST` by the table of 10_state.md section 10, and `STACK`, which
only `2nnn` writes, by 10_state.md section 6 (R16) and the table of 20_memory.md section 1 (R40). -/
def Obligations.OnlyListedInstructionsWriteASpecialRegister : Prop :=
  ∀ (i : Instr) (s t : State), exec i s = .next t →
    (t.i ≠ s.i → (∃ nnn, i = .ldI nnn) ∨ ∃ x, i = .addI x ∨ i = .ldF x ∨ i = .stRegs x ∨ i = .ldRegs x) ∧
    (t.sp ≠ s.sp → i = .ret ∨ ∃ nnn, i = .call nnn) ∧
    (t.stack ≠ s.stack → ∃ nnn, i = .call nnn) ∧
    (t.dt ≠ s.dt → ∃ x, i = .ldDTVx x) ∧
    (t.st ≠ s.st → ∃ x, i = .ldSTVx x)

/-- Which instruction writes which storage (the table of 20_memory.md section 1): `MEM`, `DISP`, `KEYS`; and none touches the
host's script (log 10). -/
def Obligations.OnlyListedInstructionsWriteAStorage : Prop :=
  ∀ (i : Instr) (s t : State), exec i s = .next t →
    (t.mem ≠ s.mem → ∃ x, i = .ldB x ∨ i = .stRegs x) ∧
    (t.disp ≠ s.disp → i = .cls ∨ ∃ x y n, i = .drw x y n) ∧
    t.keys = s.keys ∧ t.script = s.script

/-- Each instruction sets `PC` in exactly one of the ways R14 lists, or, taking a fault, keeps it (R162). -/
def Obligations.PcMovesOnlyInTheListedWays : Prop :=
  ∀ (i : Instr) (s t : State), exec i s = .next t →
    t.pc = s.pc + 2 ∨
    (t.pc = s.pc + 4 ∧ ((∃ x nn, i = .seImm x nn ∨ i = .sneImm x nn) ∨ (∃ x y, i = .seReg x y ∨ i = .sneReg x y) ∨
      ∃ x, i = .skp x ∨ i = .sknp x)) ∨
    (∃ nnn, (i = .jp nnn ∨ i = .call nnn) ∧ t.pc.toNat = nnn.toNat) ∨
    (∃ nnn, i = .jpV0 nnn ∧ t.pc.toNat = nnn.toNat + (s.readV 0).toNat) ∨
    (i = .ret ∧ ∃ (k : Nat) (h : k < 16), s.sp.val = k + 1 ∧ t.pc = s.stack[k] + 2) ∨
    (t.pc = s.pc ∧ ((∃ x, i = .ldVxK x ∧ s.keys = 0) ∨ t.fault = true))

/-- The invariants hold after every step from every state where they hold: the memory stays canonical, the fault registers agree, `PC`
stays in `0..0x10FE`, the live return addresses stay fetchable, through all five commands. -/
def Obligations.EveryStepKeepsTheInvariants : Prop := ∀ s t : State, s.Inv → step s = .next t → t.Inv

/-- The reset state meets the invariants. -/
def Obligations.ResetMeetsTheInvariants : Prop := State.reset.Inv

/-- The timers influence only the instructions that name them, and the model's own script influences none: another script, or other
timer values under an instruction that is not `Fx07`, `Fx15`, `Fx18`, changes nothing else of the outcome. -/
def Obligations.TimersAndScriptInfluenceNothingElse : Prop :=
  ∀ (i : Instr) (s t : State), exec i s = .next t →
    (∀ script : List Command, exec i { s with script := script } = .next { t with script := script }) ∧
    ((∀ x, i ≠ .ldVxDT x ∧ i ≠ .ldDTVx x ∧ i ≠ .ldSTVx x) →
      ∀ d e : Byte, exec i { s with dt := d, st := e } = .next { t with dt := d, st := e })

/-- R154: from a finished state every STEP leaves the state unchanged, and the state stays finished; TICK and SET_KEY change only
`DT`, `ST`, the tick's event and `KEYS`, and leave it finished. -/
def Obligations.AFinishedProgramStaysFinished : Prop :=
  ∀ s : State, s.finished →
    perform .step s = .next s ∧
    (∃ t : State, perform .tick s = .next t ∧ t = { s with dt := t.dt, st := t.st, event := t.event } ∧ t.finished) ∧
    (∀ (k : Nibble) (p : Bool), ∃ t : State, perform (.setKey k p) s = .next t ∧ t = { s with keys := t.keys } ∧ t.finished)

/-- The input `rnd` is read by `Cxnn` alone (46_host_commands.md sections 2 and 3): another position in the stream of bytes the
environment presents (the model's counter `draws`, DESIGN CHOICE, log 1) changes nothing of what any other instruction does, nor of
what a STEP does whose fetched word is not a `Cxnn`, the counter itself apart. -/
def Obligations.OnlyRndReadsTheRandomInput : Prop :=
  (∀ (i : Instr) (s t : State) (n : Nat), (∀ x nn, i ≠ .rnd x nn) → exec i s = .next t →
    exec i { s with draws := n } = .next { t with draws := n }) ∧
  (∀ (s t : State) (n : Nat), (∀ ins x nn, s.fetch = some ins → decodeWord ins ≠ .ok (.rnd x nn)) →
    perform .step s = .next t → perform .step { s with draws := n } = .next { t with draws := n })
end

