-- ==== Sys2Proof/Laws/State.lean ====
section
/-! SUPPORT. One lemma per field per update of State, true by rfl, so that no later proof unfolds a record update. -/

namespace Sys2Proof.Machine

variable (s : State)

/-! ## writeV -/

@[simp] theorem State.writeV_v (x : Reg) (b : Byte) : (s.writeV x b).v = s.v.set x.toNat b (reg_lt x) := rfl
@[simp] theorem State.writeV_i (x : Reg) (b : Byte) : (s.writeV x b).i = s.i := rfl
@[simp] theorem State.writeV_pc (x : Reg) (b : Byte) : (s.writeV x b).pc = s.pc := rfl
@[simp] theorem State.writeV_sp (x : Reg) (b : Byte) : (s.writeV x b).sp = s.sp := rfl
@[simp] theorem State.writeV_stack (x : Reg) (b : Byte) : (s.writeV x b).stack = s.stack := rfl
@[simp] theorem State.writeV_dt (x : Reg) (b : Byte) : (s.writeV x b).dt = s.dt := rfl
@[simp] theorem State.writeV_st (x : Reg) (b : Byte) : (s.writeV x b).st = s.st := rfl
@[simp] theorem State.writeV_mem (x : Reg) (b : Byte) : (s.writeV x b).mem = s.mem := rfl
@[simp] theorem State.writeV_disp (x : Reg) (b : Byte) : (s.writeV x b).disp = s.disp := rfl
@[simp] theorem State.writeV_keys (x : Reg) (b : Byte) : (s.writeV x b).keys = s.keys := rfl
@[simp] theorem State.writeV_fault (x : Reg) (b : Byte) : (s.writeV x b).fault = s.fault := rfl
@[simp] theorem State.writeV_faultCause (x : Reg) (b : Byte) : (s.writeV x b).faultCause = s.faultCause := rfl
@[simp] theorem State.writeV_faultIns (x : Reg) (b : Byte) : (s.writeV x b).faultIns = s.faultIns := rfl
@[simp] theorem State.writeV_draws (x : Reg) (b : Byte) : (s.writeV x b).draws = s.draws := rfl
@[simp] theorem State.writeV_event (x : Reg) (b : Byte) : (s.writeV x b).event = s.event := rfl
@[simp] theorem State.writeV_script (x : Reg) (b : Byte) : (s.writeV x b).script = s.script := rfl

/-! ## setI -/

@[simp] theorem State.setI_v (a : Word) : (s.setI a).v = s.v := rfl
@[simp] theorem State.setI_i (a : Word) : (s.setI a).i = a := rfl
@[simp] theorem State.setI_pc (a : Word) : (s.setI a).pc = s.pc := rfl
@[simp] theorem State.setI_sp (a : Word) : (s.setI a).sp = s.sp := rfl
@[simp] theorem State.setI_stack (a : Word) : (s.setI a).stack = s.stack := rfl
@[simp] theorem State.setI_dt (a : Word) : (s.setI a).dt = s.dt := rfl
@[simp] theorem State.setI_st (a : Word) : (s.setI a).st = s.st := rfl
@[simp] theorem State.setI_mem (a : Word) : (s.setI a).mem = s.mem := rfl
@[simp] theorem State.setI_disp (a : Word) : (s.setI a).disp = s.disp := rfl
@[simp] theorem State.setI_keys (a : Word) : (s.setI a).keys = s.keys := rfl
@[simp] theorem State.setI_fault (a : Word) : (s.setI a).fault = s.fault := rfl
@[simp] theorem State.setI_faultCause (a : Word) : (s.setI a).faultCause = s.faultCause := rfl
@[simp] theorem State.setI_faultIns (a : Word) : (s.setI a).faultIns = s.faultIns := rfl
@[simp] theorem State.setI_draws (a : Word) : (s.setI a).draws = s.draws := rfl
@[simp] theorem State.setI_event (a : Word) : (s.setI a).event = s.event := rfl
@[simp] theorem State.setI_script (a : Word) : (s.setI a).script = s.script := rfl
@[simp] theorem State.setI_readV (a : Word) (r : Reg) : (s.setI a).readV r = s.readV r := rfl

/-! ## setPc -/

@[simp] theorem State.setPc_v (a : Word) : (s.setPc a).v = s.v := rfl
@[simp] theorem State.setPc_i (a : Word) : (s.setPc a).i = s.i := rfl
@[simp] theorem State.setPc_pc (a : Word) : (s.setPc a).pc = a := rfl
@[simp] theorem State.setPc_sp (a : Word) : (s.setPc a).sp = s.sp := rfl
@[simp] theorem State.setPc_stack (a : Word) : (s.setPc a).stack = s.stack := rfl
@[simp] theorem State.setPc_dt (a : Word) : (s.setPc a).dt = s.dt := rfl
@[simp] theorem State.setPc_st (a : Word) : (s.setPc a).st = s.st := rfl
@[simp] theorem State.setPc_mem (a : Word) : (s.setPc a).mem = s.mem := rfl
@[simp] theorem State.setPc_disp (a : Word) : (s.setPc a).disp = s.disp := rfl
@[simp] theorem State.setPc_keys (a : Word) : (s.setPc a).keys = s.keys := rfl
@[simp] theorem State.setPc_fault (a : Word) : (s.setPc a).fault = s.fault := rfl
@[simp] theorem State.setPc_faultCause (a : Word) : (s.setPc a).faultCause = s.faultCause := rfl
@[simp] theorem State.setPc_faultIns (a : Word) : (s.setPc a).faultIns = s.faultIns := rfl
@[simp] theorem State.setPc_draws (a : Word) : (s.setPc a).draws = s.draws := rfl
@[simp] theorem State.setPc_event (a : Word) : (s.setPc a).event = s.event := rfl
@[simp] theorem State.setPc_script (a : Word) : (s.setPc a).script = s.script := rfl
@[simp] theorem State.setPc_readV (a : Word) (r : Reg) : (s.setPc a).readV r = s.readV r := rfl

/-! ## setDT -/

@[simp] theorem State.setDT_v (b : Byte) : (s.setDT b).v = s.v := rfl
@[simp] theorem State.setDT_i (b : Byte) : (s.setDT b).i = s.i := rfl
@[simp] theorem State.setDT_pc (b : Byte) : (s.setDT b).pc = s.pc := rfl
@[simp] theorem State.setDT_sp (b : Byte) : (s.setDT b).sp = s.sp := rfl
@[simp] theorem State.setDT_stack (b : Byte) : (s.setDT b).stack = s.stack := rfl
@[simp] theorem State.setDT_dt (b : Byte) : (s.setDT b).dt = b := rfl
@[simp] theorem State.setDT_st (b : Byte) : (s.setDT b).st = s.st := rfl
@[simp] theorem State.setDT_mem (b : Byte) : (s.setDT b).mem = s.mem := rfl
@[simp] theorem State.setDT_disp (b : Byte) : (s.setDT b).disp = s.disp := rfl
@[simp] theorem State.setDT_keys (b : Byte) : (s.setDT b).keys = s.keys := rfl
@[simp] theorem State.setDT_fault (b : Byte) : (s.setDT b).fault = s.fault := rfl
@[simp] theorem State.setDT_faultCause (b : Byte) : (s.setDT b).faultCause = s.faultCause := rfl
@[simp] theorem State.setDT_faultIns (b : Byte) : (s.setDT b).faultIns = s.faultIns := rfl
@[simp] theorem State.setDT_draws (b : Byte) : (s.setDT b).draws = s.draws := rfl
@[simp] theorem State.setDT_event (b : Byte) : (s.setDT b).event = s.event := rfl
@[simp] theorem State.setDT_script (b : Byte) : (s.setDT b).script = s.script := rfl
@[simp] theorem State.setDT_readV (b : Byte) (r : Reg) : (s.setDT b).readV r = s.readV r := rfl

/-! ## setST -/

@[simp] theorem State.setST_v (b : Byte) : (s.setST b).v = s.v := rfl
@[simp] theorem State.setST_i (b : Byte) : (s.setST b).i = s.i := rfl
@[simp] theorem State.setST_pc (b : Byte) : (s.setST b).pc = s.pc := rfl
@[simp] theorem State.setST_sp (b : Byte) : (s.setST b).sp = s.sp := rfl
@[simp] theorem State.setST_stack (b : Byte) : (s.setST b).stack = s.stack := rfl
@[simp] theorem State.setST_dt (b : Byte) : (s.setST b).dt = s.dt := rfl
@[simp] theorem State.setST_st (b : Byte) : (s.setST b).st = b := rfl
@[simp] theorem State.setST_mem (b : Byte) : (s.setST b).mem = s.mem := rfl
@[simp] theorem State.setST_disp (b : Byte) : (s.setST b).disp = s.disp := rfl
@[simp] theorem State.setST_keys (b : Byte) : (s.setST b).keys = s.keys := rfl
@[simp] theorem State.setST_fault (b : Byte) : (s.setST b).fault = s.fault := rfl
@[simp] theorem State.setST_faultCause (b : Byte) : (s.setST b).faultCause = s.faultCause := rfl
@[simp] theorem State.setST_faultIns (b : Byte) : (s.setST b).faultIns = s.faultIns := rfl
@[simp] theorem State.setST_draws (b : Byte) : (s.setST b).draws = s.draws := rfl
@[simp] theorem State.setST_event (b : Byte) : (s.setST b).event = s.event := rfl
@[simp] theorem State.setST_script (b : Byte) : (s.setST b).script = s.script := rfl
@[simp] theorem State.setST_readV (b : Byte) (r : Reg) : (s.setST b).readV r = s.readV r := rfl

/-! ## setDisp -/

@[simp] theorem State.setDisp_v (d : Display) : (s.setDisp d).v = s.v := rfl
@[simp] theorem State.setDisp_i (d : Display) : (s.setDisp d).i = s.i := rfl
@[simp] theorem State.setDisp_pc (d : Display) : (s.setDisp d).pc = s.pc := rfl
@[simp] theorem State.setDisp_sp (d : Display) : (s.setDisp d).sp = s.sp := rfl
@[simp] theorem State.setDisp_stack (d : Display) : (s.setDisp d).stack = s.stack := rfl
@[simp] theorem State.setDisp_dt (d : Display) : (s.setDisp d).dt = s.dt := rfl
@[simp] theorem State.setDisp_st (d : Display) : (s.setDisp d).st = s.st := rfl
@[simp] theorem State.setDisp_mem (d : Display) : (s.setDisp d).mem = s.mem := rfl
@[simp] theorem State.setDisp_disp (d : Display) : (s.setDisp d).disp = d := rfl
@[simp] theorem State.setDisp_keys (d : Display) : (s.setDisp d).keys = s.keys := rfl
@[simp] theorem State.setDisp_fault (d : Display) : (s.setDisp d).fault = s.fault := rfl
@[simp] theorem State.setDisp_faultCause (d : Display) : (s.setDisp d).faultCause = s.faultCause := rfl
@[simp] theorem State.setDisp_faultIns (d : Display) : (s.setDisp d).faultIns = s.faultIns := rfl
@[simp] theorem State.setDisp_draws (d : Display) : (s.setDisp d).draws = s.draws := rfl
@[simp] theorem State.setDisp_event (d : Display) : (s.setDisp d).event = s.event := rfl
@[simp] theorem State.setDisp_script (d : Display) : (s.setDisp d).script = s.script := rfl
@[simp] theorem State.setDisp_readV (d : Display) (r : Reg) : (s.setDisp d).readV r = s.readV r := rfl

/-! ## setKey -/

@[simp] theorem State.setKey_v (k : Nibble) (p : Bool) : (s.setKey k p).v = s.v := rfl
@[simp] theorem State.setKey_i (k : Nibble) (p : Bool) : (s.setKey k p).i = s.i := rfl
@[simp] theorem State.setKey_pc (k : Nibble) (p : Bool) : (s.setKey k p).pc = s.pc := rfl
@[simp] theorem State.setKey_sp (k : Nibble) (p : Bool) : (s.setKey k p).sp = s.sp := rfl
@[simp] theorem State.setKey_stack (k : Nibble) (p : Bool) : (s.setKey k p).stack = s.stack := rfl
@[simp] theorem State.setKey_dt (k : Nibble) (p : Bool) : (s.setKey k p).dt = s.dt := rfl
@[simp] theorem State.setKey_st (k : Nibble) (p : Bool) : (s.setKey k p).st = s.st := rfl
@[simp] theorem State.setKey_mem (k : Nibble) (p : Bool) : (s.setKey k p).mem = s.mem := rfl
@[simp] theorem State.setKey_disp (k : Nibble) (p : Bool) : (s.setKey k p).disp = s.disp := rfl
@[simp] theorem State.setKey_keys (k : Nibble) (p : Bool) : (s.setKey k p).keys = if p then s.keys ||| BitVec.twoPow 16 k.toNat else s.keys &&& ~~~ BitVec.twoPow 16 k.toNat := rfl
@[simp] theorem State.setKey_fault (k : Nibble) (p : Bool) : (s.setKey k p).fault = s.fault := rfl
@[simp] theorem State.setKey_faultCause (k : Nibble) (p : Bool) : (s.setKey k p).faultCause = s.faultCause := rfl
@[simp] theorem State.setKey_faultIns (k : Nibble) (p : Bool) : (s.setKey k p).faultIns = s.faultIns := rfl
@[simp] theorem State.setKey_draws (k : Nibble) (p : Bool) : (s.setKey k p).draws = s.draws := rfl
@[simp] theorem State.setKey_event (k : Nibble) (p : Bool) : (s.setKey k p).event = s.event := rfl
@[simp] theorem State.setKey_script (k : Nibble) (p : Bool) : (s.setKey k p).script = s.script := rfl
@[simp] theorem State.setKey_readV (k : Nibble) (p : Bool) (r : Reg) : (s.setKey k p).readV r = s.readV r := rfl

/-! ## advance -/

@[simp] theorem State.advance_v : (s.advance).v = s.v := rfl
@[simp] theorem State.advance_i : (s.advance).i = s.i := rfl
@[simp] theorem State.advance_pc : (s.advance).pc = s.pc + 2 := rfl
@[simp] theorem State.advance_sp : (s.advance).sp = s.sp := rfl
@[simp] theorem State.advance_stack : (s.advance).stack = s.stack := rfl
@[simp] theorem State.advance_dt : (s.advance).dt = s.dt := rfl
@[simp] theorem State.advance_st : (s.advance).st = s.st := rfl
@[simp] theorem State.advance_mem : (s.advance).mem = s.mem := rfl
@[simp] theorem State.advance_disp : (s.advance).disp = s.disp := rfl
@[simp] theorem State.advance_keys : (s.advance).keys = s.keys := rfl
@[simp] theorem State.advance_fault : (s.advance).fault = s.fault := rfl
@[simp] theorem State.advance_faultCause : (s.advance).faultCause = s.faultCause := rfl
@[simp] theorem State.advance_faultIns : (s.advance).faultIns = s.faultIns := rfl
@[simp] theorem State.advance_draws : (s.advance).draws = s.draws := rfl
@[simp] theorem State.advance_event : (s.advance).event = s.event := rfl
@[simp] theorem State.advance_script : (s.advance).script = s.script := rfl
@[simp] theorem State.advance_readV (r : Reg) : (s.advance).readV r = s.readV r := rfl

/-! ## skipIf -/

@[simp] theorem State.skipIf_v (c : Bool) : (s.skipIf c).v = s.v := rfl
@[simp] theorem State.skipIf_i (c : Bool) : (s.skipIf c).i = s.i := rfl
@[simp] theorem State.skipIf_pc (c : Bool) : (s.skipIf c).pc = s.pc + if c then 4 else 2 := rfl
@[simp] theorem State.skipIf_sp (c : Bool) : (s.skipIf c).sp = s.sp := rfl
@[simp] theorem State.skipIf_stack (c : Bool) : (s.skipIf c).stack = s.stack := rfl
@[simp] theorem State.skipIf_dt (c : Bool) : (s.skipIf c).dt = s.dt := rfl
@[simp] theorem State.skipIf_st (c : Bool) : (s.skipIf c).st = s.st := rfl
@[simp] theorem State.skipIf_mem (c : Bool) : (s.skipIf c).mem = s.mem := rfl
@[simp] theorem State.skipIf_disp (c : Bool) : (s.skipIf c).disp = s.disp := rfl
@[simp] theorem State.skipIf_keys (c : Bool) : (s.skipIf c).keys = s.keys := rfl
@[simp] theorem State.skipIf_fault (c : Bool) : (s.skipIf c).fault = s.fault := rfl
@[simp] theorem State.skipIf_faultCause (c : Bool) : (s.skipIf c).faultCause = s.faultCause := rfl
@[simp] theorem State.skipIf_faultIns (c : Bool) : (s.skipIf c).faultIns = s.faultIns := rfl
@[simp] theorem State.skipIf_draws (c : Bool) : (s.skipIf c).draws = s.draws := rfl
@[simp] theorem State.skipIf_event (c : Bool) : (s.skipIf c).event = s.event := rfl
@[simp] theorem State.skipIf_script (c : Bool) : (s.skipIf c).script = s.script := rfl
@[simp] theorem State.skipIf_readV (c : Bool) (r : Reg) : (s.skipIf c).readV r = s.readV r := rfl

/-! ## poke -/

@[simp] theorem State.poke_v (a : Nat) (bs : List Byte) : (s.poke a bs).v = s.v := rfl
@[simp] theorem State.poke_i (a : Nat) (bs : List Byte) : (s.poke a bs).i = s.i := rfl
@[simp] theorem State.poke_pc (a : Nat) (bs : List Byte) : (s.poke a bs).pc = s.pc := rfl
@[simp] theorem State.poke_sp (a : Nat) (bs : List Byte) : (s.poke a bs).sp = s.sp := rfl
@[simp] theorem State.poke_stack (a : Nat) (bs : List Byte) : (s.poke a bs).stack = s.stack := rfl
@[simp] theorem State.poke_dt (a : Nat) (bs : List Byte) : (s.poke a bs).dt = s.dt := rfl
@[simp] theorem State.poke_st (a : Nat) (bs : List Byte) : (s.poke a bs).st = s.st := rfl
@[simp] theorem State.poke_mem (a : Nat) (bs : List Byte) : (s.poke a bs).mem = s.mem.writeBytes a bs := rfl
@[simp] theorem State.poke_disp (a : Nat) (bs : List Byte) : (s.poke a bs).disp = s.disp := rfl
@[simp] theorem State.poke_keys (a : Nat) (bs : List Byte) : (s.poke a bs).keys = s.keys := rfl
@[simp] theorem State.poke_fault (a : Nat) (bs : List Byte) : (s.poke a bs).fault = s.fault := rfl
@[simp] theorem State.poke_faultCause (a : Nat) (bs : List Byte) : (s.poke a bs).faultCause = s.faultCause := rfl
@[simp] theorem State.poke_faultIns (a : Nat) (bs : List Byte) : (s.poke a bs).faultIns = s.faultIns := rfl
@[simp] theorem State.poke_draws (a : Nat) (bs : List Byte) : (s.poke a bs).draws = s.draws := rfl
@[simp] theorem State.poke_event (a : Nat) (bs : List Byte) : (s.poke a bs).event = s.event := rfl
@[simp] theorem State.poke_script (a : Nat) (bs : List Byte) : (s.poke a bs).script = s.script := rfl
@[simp] theorem State.poke_readV (a : Nat) (bs : List Byte) (r : Reg) : (s.poke a bs).readV r = s.readV r := rfl

/-! ## emit -/

@[simp] theorem State.emit_v (e : Event) : (s.emit e).v = s.v := rfl
@[simp] theorem State.emit_i (e : Event) : (s.emit e).i = s.i := rfl
@[simp] theorem State.emit_pc (e : Event) : (s.emit e).pc = s.pc := rfl
@[simp] theorem State.emit_sp (e : Event) : (s.emit e).sp = s.sp := rfl
@[simp] theorem State.emit_stack (e : Event) : (s.emit e).stack = s.stack := rfl
@[simp] theorem State.emit_dt (e : Event) : (s.emit e).dt = s.dt := rfl
@[simp] theorem State.emit_st (e : Event) : (s.emit e).st = s.st := rfl
@[simp] theorem State.emit_mem (e : Event) : (s.emit e).mem = s.mem := rfl
@[simp] theorem State.emit_disp (e : Event) : (s.emit e).disp = s.disp := rfl
@[simp] theorem State.emit_keys (e : Event) : (s.emit e).keys = s.keys := rfl
@[simp] theorem State.emit_fault (e : Event) : (s.emit e).fault = s.fault := rfl
@[simp] theorem State.emit_faultCause (e : Event) : (s.emit e).faultCause = s.faultCause := rfl
@[simp] theorem State.emit_faultIns (e : Event) : (s.emit e).faultIns = s.faultIns := rfl
@[simp] theorem State.emit_draws (e : Event) : (s.emit e).draws = s.draws := rfl
@[simp] theorem State.emit_event (e : Event) : (s.emit e).event = some e := rfl
@[simp] theorem State.emit_script (e : Event) : (s.emit e).script = s.script := rfl
@[simp] theorem State.emit_readV (e : Event) (r : Reg) : (s.emit e).readV r = s.readV r := rfl

/-! ## sampled -/

@[simp] theorem State.sampled_v : (s.sampled).v = s.v := rfl
@[simp] theorem State.sampled_i : (s.sampled).i = s.i := rfl
@[simp] theorem State.sampled_pc : (s.sampled).pc = s.pc := rfl
@[simp] theorem State.sampled_sp : (s.sampled).sp = s.sp := rfl
@[simp] theorem State.sampled_stack : (s.sampled).stack = s.stack := rfl
@[simp] theorem State.sampled_dt : (s.sampled).dt = s.dt := rfl
@[simp] theorem State.sampled_st : (s.sampled).st = s.st := rfl
@[simp] theorem State.sampled_mem : (s.sampled).mem = s.mem := rfl
@[simp] theorem State.sampled_disp : (s.sampled).disp = s.disp := rfl
@[simp] theorem State.sampled_keys : (s.sampled).keys = s.keys := rfl
@[simp] theorem State.sampled_fault : (s.sampled).fault = s.fault := rfl
@[simp] theorem State.sampled_faultCause : (s.sampled).faultCause = s.faultCause := rfl
@[simp] theorem State.sampled_faultIns : (s.sampled).faultIns = s.faultIns := rfl
@[simp] theorem State.sampled_draws : (s.sampled).draws = s.draws + 1 := rfl
@[simp] theorem State.sampled_event : (s.sampled).event = s.event := rfl
@[simp] theorem State.sampled_script : (s.sampled).script = s.script := rfl
@[simp] theorem State.sampled_readV (r : Reg) : (s.sampled).readV r = s.readV r := rfl

/-! ## raise -/

@[simp] theorem State.raise_v (c : FaultCause) (w : Word) : (s.raise c w).v = s.v := rfl
@[simp] theorem State.raise_i (c : FaultCause) (w : Word) : (s.raise c w).i = s.i := rfl
@[simp] theorem State.raise_pc (c : FaultCause) (w : Word) : (s.raise c w).pc = s.pc := rfl
@[simp] theorem State.raise_sp (c : FaultCause) (w : Word) : (s.raise c w).sp = s.sp := rfl
@[simp] theorem State.raise_stack (c : FaultCause) (w : Word) : (s.raise c w).stack = s.stack := rfl
@[simp] theorem State.raise_dt (c : FaultCause) (w : Word) : (s.raise c w).dt = s.dt := rfl
@[simp] theorem State.raise_st (c : FaultCause) (w : Word) : (s.raise c w).st = s.st := rfl
@[simp] theorem State.raise_mem (c : FaultCause) (w : Word) : (s.raise c w).mem = s.mem := rfl
@[simp] theorem State.raise_disp (c : FaultCause) (w : Word) : (s.raise c w).disp = s.disp := rfl
@[simp] theorem State.raise_keys (c : FaultCause) (w : Word) : (s.raise c w).keys = s.keys := rfl
@[simp] theorem State.raise_fault (c : FaultCause) (w : Word) : (s.raise c w).fault = true := rfl
@[simp] theorem State.raise_faultCause (c : FaultCause) (w : Word) : (s.raise c w).faultCause = c.code := rfl
@[simp] theorem State.raise_faultIns (c : FaultCause) (w : Word) : (s.raise c w).faultIns = w := rfl
@[simp] theorem State.raise_draws (c : FaultCause) (w : Word) : (s.raise c w).draws = s.draws := rfl
@[simp] theorem State.raise_event (c : FaultCause) (w : Word) : (s.raise c w).event = s.event := rfl
@[simp] theorem State.raise_script (c : FaultCause) (w : Word) : (s.raise c w).script = s.script := rfl
@[simp] theorem State.raise_readV (c : FaultCause) (w : Word) (r : Reg) : (s.raise c w).readV r = s.readV r := rfl

/-! ## accept -/

@[simp] theorem State.accept_v : (s.accept).v = s.v := rfl
@[simp] theorem State.accept_i : (s.accept).i = s.i := rfl
@[simp] theorem State.accept_pc : (s.accept).pc = s.pc := rfl
@[simp] theorem State.accept_sp : (s.accept).sp = s.sp := rfl
@[simp] theorem State.accept_stack : (s.accept).stack = s.stack := rfl
@[simp] theorem State.accept_dt : (s.accept).dt = s.dt := rfl
@[simp] theorem State.accept_st : (s.accept).st = s.st := rfl
@[simp] theorem State.accept_mem : (s.accept).mem = s.mem := rfl
@[simp] theorem State.accept_disp : (s.accept).disp = s.disp := rfl
@[simp] theorem State.accept_keys : (s.accept).keys = s.keys := rfl
@[simp] theorem State.accept_fault : (s.accept).fault = s.fault := rfl
@[simp] theorem State.accept_faultCause : (s.accept).faultCause = s.faultCause := rfl
@[simp] theorem State.accept_faultIns : (s.accept).faultIns = s.faultIns := rfl
@[simp] theorem State.accept_draws : (s.accept).draws = s.draws := rfl
@[simp] theorem State.accept_event : (s.accept).event = none := rfl
@[simp] theorem State.accept_script : (s.accept).script = s.script.tail := rfl
@[simp] theorem State.accept_readV (r : Reg) : (s.accept).readV r = s.readV r := rfl

end Sys2Proof.Machine
end

