-- ==== Sys2Proof/Laws/Memory.lean ====
section
/-! SUPPORT. The laws of memory: a read after a write, the canonical form kept, equal memories are equal data. -/

namespace Sys2Proof.Machine

theorem Memory.read_cell_append (a : Nat) (b : Byte) (rest : Memory) (k : Nat) (h : k = a → Memory.read rest a = resetByte a) :
    Memory.read (Memory.cell a b ++ rest) k = if a = k then b else Memory.read rest k := by
  unfold Memory.cell
  split
  · rename_i hb
    by_cases hk : a = k
    · subst hk; simp [hb, h rfl]
    · simp [hk]
  · simp [Memory.read]

theorem Memory.read_of_not_mem (m : Memory) (a : Nat) (h : ∀ c ∈ m, c.1 ≠ a) : Memory.read m a = resetByte a := by
  induction m with
  | nil => rfl
  | cons c rest ih =>
    obtain ⟨k, b⟩ := c
    have hk : k ≠ a := h (k, b) (by simp)
    simp only [Memory.read, if_neg hk]
    exact ih (fun c hc => h c (by simp [hc]))

theorem Memory.read_insert (a : Nat) (b : Byte) (m : Memory) (k : Nat) (h : ∀ c ∈ m, c.1 ≠ a) :
    Memory.read (Memory.insert a b m) k = if a = k then b else Memory.read m k := by
  induction m with
  | nil => simpa [Memory.insert] using Memory.read_cell_append a b [] k (fun _ => rfl)
  | cons c rest ih =>
    obtain ⟨j, c⟩ := c
    have hr : ∀ c ∈ rest, c.1 ≠ a := fun c hc => h c (by simp [hc])
    have hj : j ≠ a := h (j, c) (by simp)
    simp only [Memory.insert]
    split
    · exact Memory.read_cell_append a b _ k (fun _ => Memory.read_of_not_mem _ _ h)
    · simp only [Memory.read, ih hr]
      by_cases hjk : j = k
      · subst hjk; simp [Ne.symm hj]
      · simp [hjk]

theorem Memory.read_filter_ne (m : Memory) (a k : Nat) (h : a ≠ k) :
    Memory.read (m.filter (fun c => c.1 != a)) k = Memory.read m k := by
  induction m with
  | nil => rfl
  | cons c rest ih =>
    obtain ⟨j, c⟩ := c
    by_cases hj : j = a
    · subst hj; simp [Memory.read, h, ih]
    · simp [Memory.read, hj, ih]

/-- A read after a write: the byte written there, every other byte as before. It holds of every memory. -/
theorem Memory.read_write (m : Memory) (a : Nat) (b : Byte) (k : Nat) :
    (m.write a b).read k = if a = k then b else m.read k := by
  unfold Memory.write
  rw [Memory.read_insert]
  · split
    · rfl
    · rename_i h; exact Memory.read_filter_ne m a k h
  · intro c hc
    simpa using (List.mem_filter.mp hc).2

/-- A read after several writes (R46): the byte stored at that offset, every byte outside as before. -/
theorem Memory.read_writeBytes (bs : List Byte) (m : Memory) (a k : Nat) :
    (m.writeBytes a bs).read k = if h : a ≤ k ∧ k - a < bs.length then bs[k - a] else m.read k := by
  induction bs generalizing m a with
  | nil => simp [Memory.writeBytes]
  | cons b bs ih =>
    simp only [Memory.writeBytes, ih, Memory.read_write, List.length_cons]
    by_cases hak : a = k
    · subst hak; simp
    · by_cases h1 : a + 1 ≤ k ∧ k - (a + 1) < bs.length
      · have h2 : a ≤ k ∧ k - a < bs.length + 1 := by omega
        rw [dif_pos h1, dif_pos h2]
        have : k - a = (k - (a + 1)) + 1 := by omega
        simp [this]
      · have h2 : ¬ (a ≤ k ∧ k - a < bs.length + 1) := by omega
        rw [dif_neg h1, dif_neg h2, if_neg hak]

theorem Memory.length_readBytes (m : Memory) (n a : Nat) : (m.readBytes a n).length = n := by
  induction n generalizing a with
  | zero => rfl
  | succ n ih => simp [Memory.readBytes, ih]

theorem Memory.getElem_readBytes (m : Memory) (n a k : Nat) (h : k < (m.readBytes a n).length) :
    (m.readBytes a n)[k] = m.read (a + k) := by
  induction n generalizing a k with
  | zero => simp [Memory.readBytes] at h
  | succ n ih =>
    cases k with
    | zero => simp [Memory.readBytes]
    | succ k =>
      simp only [Memory.readBytes, List.getElem_cons_succ]
      rw [ih]; congr 1; omega

theorem Memory.mem_insert {c : Host.Cell} {a : Nat} {b : Byte} {m : Memory} (h : c ∈ Memory.insert a b m) :
    (c = (a, b) ∧ b ≠ resetByte a) ∨ c ∈ m := by
  induction m with
  | nil =>
    simp only [Memory.insert, Memory.cell] at h
    split at h
    · simp at h
    · exact .inl ⟨by simpa using h, by assumption⟩
  | cons d rest ih =>
    obtain ⟨k, d⟩ := d
    simp only [Memory.insert] at h
    split at h
    · simp only [Memory.cell] at h
      split at h
      · exact .inr (by simpa using h)
      · rcases List.mem_append.mp h with h | h
        · exact .inl ⟨by simpa using h, by assumption⟩
        · exact .inr h
    · rcases List.mem_cons.mp h with h | h
      · exact .inr (by simp [h])
      · rcases ih h with h | h
        · exact .inl h
        · exact .inr (by simp [h])

theorem Memory.pairwise_insert (a : Nat) (b : Byte) (m : Memory) (hs : m.Pairwise (fun p q => p.1 < q.1))
    (hn : ∀ c ∈ m, c.1 ≠ a) : (Memory.insert a b m).Pairwise (fun p q => p.1 < q.1) := by
  induction m with
  | nil => simp only [Memory.insert, Memory.cell]; split <;> simp
  | cons d rest ih =>
    obtain ⟨k, d⟩ := d
    have hk : k ≠ a := hn (k, d) (by simp)
    have hr := List.pairwise_cons.mp hs
    simp only [Memory.insert]
    split
    · rename_i hlt
      simp only [Memory.cell]
      split
      · simpa using hs
      · refine List.pairwise_cons.mpr ⟨?_, hs⟩
        intro c hc
        rcases List.mem_cons.mp hc with rfl | hc
        · exact hlt
        · exact Nat.lt_trans hlt (hr.1 c hc)
    · refine List.pairwise_cons.mpr ⟨?_, ih hr.2 (fun c hc => hn c (by simp [hc]))⟩
      intro c hc
      rcases Memory.mem_insert hc with ⟨rfl, _⟩ | hc
      · show k < a; omega
      · exact hr.1 c hc

/-- A write inside `MEM` keeps the canonical form. -/
theorem Memory.wf_write {m : Memory} (h : m.wf) {a : Nat} (ha : a ≤ 0xFFF) (b : Byte) : (m.write a b).wf := by
  have hn : ∀ c ∈ m.filter (fun c => c.1 != a), c.1 ≠ a := fun c hc => by simpa using (List.mem_filter.mp hc).2
  refine ⟨Memory.pairwise_insert a b _ (h.1.filter _) hn, ?_⟩
  intro c hc
  rcases Memory.mem_insert hc with ⟨rfl, hb⟩ | hc
  · exact ⟨ha, hb⟩
  · exact h.2 c (List.mem_filter.mp hc).1

/-- Bytes stored inside `MEM` keep the canonical form. -/
theorem Memory.wf_writeBytes (bs : List Byte) {m : Memory} (h : m.wf) {a : Nat} (ha : a + bs.length ≤ 0x1000) :
    (m.writeBytes a bs).wf := by
  induction bs generalizing m a with
  | nil => exact h
  | cons b bs ih =>
    simp only [List.length_cons] at ha
    exact ih (Memory.wf_write h (by omega) b) (by omega)

/-- The reset memory is canonical. -/
theorem Memory.wf_nil : Memory.wf [] := ⟨List.Pairwise.nil, by simp⟩

/-- Canonical memories that read alike are the same data. -/
theorem Memory.ext_of_wf : ∀ {m m' : Memory}, m.wf → m'.wf → (∀ a, m.read a = m'.read a) → m = m'
  | [], [], _, _, _ => rfl
  | [], (k, c) :: r', _, h', hr => by
    have := hr k
    simp [Memory.read] at this
    exact absurd this.symm (h'.2 (k, c) (by simp)).2
  | (k, c) :: r, [], h, _, hr => by
    have := hr k
    simp [Memory.read] at this
    exact absurd this (h.2 (k, c) (by simp)).2
  | (k, c) :: r, (k', c') :: r', h, h', hr => by
    obtain ⟨hs, hp⟩ := h
    obtain ⟨hs', hp'⟩ := h'
    rw [List.pairwise_cons] at hs hs'
    have hc := (hp (k, c) (by simp)).2
    have hc' := (hp' (k', c') (by simp)).2
    have below : ∀ {j : Nat} {d : Byte} {l : Memory}, (∀ e ∈ l, j < e.1) → Memory.read ((j, d) :: l) j = d ∧
        ∀ i, i < j → Memory.read ((j, d) :: l) i = resetByte i := by
      intro j d l hl
      refine ⟨by simp [Memory.read], fun i hi => ?_⟩
      apply Memory.read_of_not_mem
      intro e he
      rcases List.mem_cons.mp he with rfl | he
      · exact Nat.ne_of_gt hi
      · exact Nat.ne_of_gt (Nat.lt_trans hi (hl e he))
    have b1 := below (d := c) hs.1
    have b2 := below (d := c') hs'.1
    have hk : k = k' := by
      rcases Nat.lt_trichotomy k k' with hlt | heq | hgt
      · exact absurd (b1.1.symm.trans ((hr k).trans (b2.2 k hlt))) hc
      · exact heq
      · exact absurd (b2.1.symm.trans ((hr k').symm.trans (b1.2 k' hgt))) hc'
    subst hk
    have hcc : c = c' := b1.1.symm.trans ((hr k).trans b2.1)
    subst hcc
    have : r = r' := by
      refine Memory.ext_of_wf ⟨hs.2, fun e he => hp e (by simp [he])⟩ ⟨hs'.2, fun e he => hp' e (by simp [he])⟩ ?_
      intro a
      by_cases ha : k = a
      · subst ha
        rw [Memory.read_of_not_mem r _ (fun e he => Nat.ne_of_gt (hs.1 e he)),
          Memory.read_of_not_mem r' _ (fun e he => Nat.ne_of_gt (hs'.1 e he))]
      · simpa [Memory.read, ha] using hr a
    rw [this]

/-- When the range test passes and when it fails (R41, R42). -/
theorem outsideMem_eq_true (a n : Nat) : outsideMem a n = true ↔ 0 < n ∧ 0xFFF < a + (n - 1) := by simp [outsideMem]

theorem outsideMem_eq_false (a n : Nat) : outsideMem a n = false ↔ n = 0 ∨ a + n ≤ 0x1000 := by
  simp only [outsideMem, decide_eq_false_iff_not]; omega

/-- Everything `MemRead` of a range can answer (R41). -/
theorem State.load_eq_some {s : State} {a n : Nat} {bs : List Byte} (h : s.load a n = some bs) :
    (n = 0 ∨ a + n ≤ 0x1000) ∧ bs = s.mem.readBytes a n := by
  unfold State.load at h
  split at h
  · cases h
  · rename_i hr
    exact ⟨(outsideMem_eq_false a n).mp (by simpa using hr), by simpa using h.symm⟩

/-- Everything `MemWrite` of a range can answer (R42). -/
theorem State.store_eq_some {s t : State} {a : Nat} {bs : List Byte} (h : s.store a bs = some t) :
    (bs.length = 0 ∨ a + bs.length ≤ 0x1000) ∧ t = s.poke a bs := by
  unfold State.store at h
  split at h
  · cases h
  · rename_i hr
    exact ⟨(outsideMem_eq_false a _).mp (by simpa using hr), by simpa using h.symm⟩

/-- `MemRead` of a range answers exactly one of two ways (R41). -/
theorem State.load_cases (s : State) (a n : Nat) :
    (s.load a n = none ∧ 0 < n ∧ 0xFFF < a + (n - 1)) ∨ (s.load a n = some (s.mem.readBytes a n) ∧ (n = 0 ∨ a + n ≤ 0x1000)) := by
  unfold State.load
  cases h : outsideMem a n
  · exact .inr ⟨rfl, (outsideMem_eq_false _ _).mp h⟩
  · exact .inl ⟨rfl, (outsideMem_eq_true _ _).mp h⟩

/-- `MemWrite` of a range answers exactly one of two ways (R42). -/
theorem State.store_cases (s : State) (a : Nat) (bs : List Byte) :
    (s.store a bs = none ∧ 0 < bs.length ∧ 0xFFF < a + (bs.length - 1)) ∨
    (s.store a bs = some (s.poke a bs) ∧ (bs.length = 0 ∨ a + bs.length ≤ 0x1000)) := by
  unfold State.store
  cases h : outsideMem a bs.length
  · exact .inr ⟨rfl, (outsideMem_eq_false _ _).mp h⟩
  · exact .inl ⟨rfl, (outsideMem_eq_true _ _).mp h⟩

/-- The reset contents outside the font are 0 (R26). -/
theorem resetByte_eq_zero {a : Nat} (h : a < 0x050 ∨ 0x09F < a) : resetByte a = 0 := by
  have hl : Config.fontTable.length = 80 := by decide
  unfold resetByte Config.fontBase
  split
  · exact List.getD_eq_default _ _ (by omega)
  · rfl

end Sys2Proof.Machine
end

