-- ==== Sys2Proof/Laws/Display.lean ====
section
/-! SUPPORT. The laws of the sprite engine: what the draw loop leaves in every pixel, which cells a sprite covers. -/

namespace Sys2Proof.Machine

/-- One pixel flipped, the others kept (R53). -/
theorem getLsbD_flipPixel (d : Display) (k j : Nat) (hj : j < 2048) :
    (flipPixel d k).getLsbD j = (d.getLsbD j ^^ decide (k = j)) := by
  simp only [flipPixel, BitVec.getLsbD_xor, BitVec.getLsbD_twoPow]
  by_cases h : k = j
  · simp [h, hj]
  · simp [h]

/-- What the draw loop leaves in pixel `j` when it visits each pixel at most once (R121). -/
theorem getLsbD_xorPixels (ks : List Nat) (d : Display) (hit : Bool) (hn : ks.Nodup) (j : Nat) (hj : j < 2048) :
    (xorPixels d hit ks).1.getLsbD j = (d.getLsbD j ^^ decide (j ∈ ks)) := by
  induction ks generalizing d hit with
  | nil => simp [xorPixels]
  | cons k ks ih =>
    obtain ⟨hk, hn⟩ := List.nodup_cons.mp hn
    simp only [xorPixels, ih _ _ hn, getLsbD_flipPixel _ _ _ hj, List.mem_cons]
    by_cases hkj : k = j
    · subst hkj; simp [hk]
    · simp [hkj, Ne.symm hkj]

/-- The collision the draw loop reports when it visits each pixel at most once (R121). -/
theorem hit_xorPixels (ks : List Nat) (d : Display) (hit : Bool) (hn : ks.Nodup) (hb : ∀ k ∈ ks, k < 2048) :
    (xorPixels d hit ks).2 = (hit || ks.any (fun k => d.getLsbD k)) := by
  induction ks generalizing d hit with
  | nil => simp [xorPixels]
  | cons k ks ih =>
    obtain ⟨hk, hn⟩ := List.nodup_cons.mp hn
    have hb' : ∀ k ∈ ks, k < 2048 := fun j hj => hb j (by simp [hj])
    simp only [xorPixels, ih _ _ hn hb', List.any_cons, Bool.or_assoc]
    congr 2
    rw [Bool.eq_iff_iff, List.any_eq_true, List.any_eq_true]
    have same : ∀ j ∈ ks, (flipPixel d k).getLsbD j = d.getLsbD j := by
      intro j hj
      have : k ≠ j := fun e => hk (e ▸ hj)
      rw [getLsbD_flipPixel _ _ _ (hb' j hj)]; simp [this]
    exact ⟨fun ⟨j, hj, h⟩ => ⟨j, hj, (same j hj) ▸ h⟩, fun ⟨j, hj, h⟩ => ⟨j, hj, (same j hj).symm ▸ h⟩⟩

/-- The cells of one sprite row (R121). -/
theorem mem_rowCells {x0 y : Nat} {row : Byte} {p : Nat × Nat} :
    p ∈ rowCells x0 y row ↔ ∃ c, c < 8 ∧ spriteBit row c = true ∧ p = (x0 + c, y) := by
  simp only [rowCells, List.mem_map, List.mem_filter, List.mem_range]
  exact ⟨fun ⟨c, ⟨h1, h2⟩, h3⟩ => ⟨c, h1, h2, h3.symm⟩, fun ⟨c, h1, h2, h3⟩ => ⟨c, ⟨h1, h2⟩, h3.symm⟩⟩

/-- The cells of a sprite: one for each set bit (R121). -/
theorem mem_spriteCells {x0 : Nat} {rows : List Byte} {y : Nat} {p : Nat × Nat} :
    p ∈ spriteCells x0 y rows ↔
      ∃ (r : Nat) (h : r < rows.length) (c : Nat), c < 8 ∧ spriteBit rows[r] c = true ∧ p = (x0 + c, y + r) := by
  induction rows generalizing y with
  | nil => simp [spriteCells]
  | cons row rows ih =>
    rw [spriteCells, List.mem_append, mem_rowCells, ih]
    constructor
    · rintro (⟨c, h1, h2, h3⟩ | ⟨r, h, c, h1, h2, h3⟩)
      · exact ⟨0, by simp, c, h1, h2, h3⟩
      · exact ⟨r + 1, by simpa using h, c, h1, h2, by rw [h3]; congr 1; omega⟩
    · rintro ⟨r, h, c, h1, h2, h3⟩
      cases r with
      | zero => exact .inl ⟨c, h1, h2, h3⟩
      | succ r => exact .inr ⟨r, by simpa using h, c, h1, h2, by rw [h3]; congr 1; omega⟩

/-- Bit `c` of a sprite row, `0x80` being column offset 0 (R44, R121). -/
theorem spriteBit_eq (row : Byte) (c : Nat) : spriteBit row c = row.getLsbD (7 - c) := by
  simp [spriteBit]

/-- No cell of a sprite is listed twice. -/
theorem nodup_spriteCells (x0 : Nat) (rows : List Byte) (y0 : Nat) : (spriteCells x0 y0 rows).Nodup := by
  induction rows generalizing y0 with
  | nil => simp [spriteCells]
  | cons row rows ih =>
    rw [spriteCells, List.nodup_append]
    refine ⟨List.Nodup.map (fun a b h => by simpa using h) (List.Nodup.filter _ List.nodup_range), ih _, ?_⟩
    intro a ha b hb hab
    subst hab
    obtain ⟨c, _, _, rfl⟩ := mem_rowCells.mp ha
    obtain ⟨r, _, c', _, _, h⟩ := mem_spriteCells.mp hb
    simp only [Prod.mk.injEq] at h
    omega

end Sys2Proof.Machine
end

