-- ==== Sys2Proof/Laws/Encoding.lean ====
section
/-! SUPPORT. The laws of the encoder's formats as numbers, and of a word laid out as two bytes. -/

namespace Sys2Proof.Laws

/-- Fields that do not overlap: their OR is their sum. -/
theorem shiftLeft_or_eq_add (a b k : Nat) (h : b < 2 ^ k) : (a <<< k) ||| b = a * 2 ^ k + b := by
  rw [Nat.shiftLeft_eq, Nat.mul_comm, Nat.two_pow_add_eq_or_of_lt h]

/-- The word of format A as a number (R61, R62). -/
theorem toNat_formatA (op : Nibble) (nnn : Addr) : (formatA op nnn).toNat = 4096 * op.toNat + nnn.toNat := by
  have h := op.isLt; have h' := nnn.isLt
  have e : op.toNat % 65536 = op.toNat := by omega
  have e' : nnn.toNat % 65536 = nnn.toNat := by omega
  have e2 : op.toNat <<< 12 % 65536 = op.toNat <<< 12 := by rw [Nat.shiftLeft_eq]; omega
  simp only [formatA, BitVec.toNat_or, BitVec.toNat_shiftLeft, BitVec.toNat_setWidth, e, e', e2, Nat.reducePow]
  rw [shiftLeft_or_eq_add _ _ 12 h']; omega

/-- The word of formats XB and X as a number (R61, R62). -/
theorem toNat_formatXB (op : Nibble) (x : Reg) (nn : Byte) :
    (formatXB op x nn).toNat = 4096 * op.toNat + 256 * x.toNat + nn.toNat := by
  have h := op.isLt; have hx := x.isLt; have h' := nn.isLt
  have e2 : op.toNat <<< 12 % 65536 = op.toNat <<< 12 := by rw [Nat.shiftLeft_eq]; omega
  have e3 : x.toNat <<< 8 % 65536 = x.toNat <<< 8 := by rw [Nat.shiftLeft_eq]; omega
  simp only [formatXB, BitVec.toNat_or, BitVec.toNat_shiftLeft, BitVec.toNat_setWidth, Nat.reducePow,
    Nat.mod_eq_of_lt (show op.toNat < 65536 by omega), Nat.mod_eq_of_lt (show x.toNat < 65536 by omega),
    Nat.mod_eq_of_lt (show nn.toNat < 65536 by omega), e2, e3]
  rw [Nat.or_assoc, shiftLeft_or_eq_add _ _ 8 h', shiftLeft_or_eq_add _ _ 12 (by omega)]; omega

/-- The word of formats XY and XYN as a number (R61, R62). -/
theorem toNat_formatXY (op : Nibble) (x y : Reg) (n : Nibble) :
    (formatXY op x y n).toNat = 4096 * op.toNat + 256 * x.toNat + 16 * y.toNat + n.toNat := by
  have h := op.isLt; have hx := x.isLt; have hy := y.isLt; have h' := n.isLt
  have e2 : op.toNat <<< 12 % 65536 = op.toNat <<< 12 := by rw [Nat.shiftLeft_eq]; omega
  have e3 : x.toNat <<< 8 % 65536 = x.toNat <<< 8 := by rw [Nat.shiftLeft_eq]; omega
  have e4 : y.toNat <<< 4 % 65536 = y.toNat <<< 4 := by rw [Nat.shiftLeft_eq]; omega
  simp only [formatXY, BitVec.toNat_or, BitVec.toNat_shiftLeft, BitVec.toNat_setWidth, Nat.reducePow,
    Nat.mod_eq_of_lt (show op.toNat < 65536 by omega), Nat.mod_eq_of_lt (show x.toNat < 65536 by omega),
    Nat.mod_eq_of_lt (show y.toNat < 65536 by omega), Nat.mod_eq_of_lt (show n.toNat < 65536 by omega), e2, e3, e4]
  rw [Nat.or_assoc, Nat.or_assoc, shiftLeft_or_eq_add _ _ 4 h', shiftLeft_or_eq_add _ _ 8 (by omega), shiftLeft_or_eq_add _ _ 12 (by omega)]; omega

/-- A word laid out as two bytes and read back (R43). -/
theorem wordOfBytes_bytes (w : Word) : wordOfBytes (w.extractLsb' 8 8) (w.extractLsb' 0 8) = w := by
  apply BitVec.eq_of_getLsbD_eq; intro j hj; interval_cases j <;> simp [wordOfBytes]

/-- The big-endian word of two bytes as a number (R43). -/
theorem toNat_wordOfBytes (a b : Byte) : (wordOfBytes a b).toNat = 256 * a.toNat + b.toNat := by
  have ha := a.isLt; have hb := b.isLt
  have e : a.toNat <<< 8 % 65536 = a.toNat <<< 8 := by rw [Nat.shiftLeft_eq]; omega
  simp only [wordOfBytes, BitVec.toNat_or, BitVec.toNat_shiftLeft, BitVec.toNat_setWidth, Nat.reducePow,
    Nat.mod_eq_of_lt (show a.toNat < 65536 by omega), Nat.mod_eq_of_lt (show b.toNat < 65536 by omega), e]
  rw [shiftLeft_or_eq_add _ _ 8 hb]; omega

end Sys2Proof.Laws
end

