-- ==== Sys2Proof/Laws/Inputs.lean ====
section
/-! SUPPORT. The laws of the key latch and of `KEY_SELECT` (R21, R132, R148). -/

namespace Sys2Proof.Machine

/-- The listed indices are those of the keys that are down (R21). -/
theorem mem_keysDown {keys : Keys} {k : Nat} : k ∈ keysDown keys ↔ k < 16 ∧ keys.getLsbD k = true := by
  simp [keysDown]

/-- While some key is down the list is not empty (R132). -/
theorem length_keysDown_pos {keys : Keys} (h : keys ≠ 0) : 0 < (keysDown keys).length := by
  rw [List.length_pos_iff]
  intro he
  apply h
  apply BitVec.eq_of_getLsbD_eq
  intro j hj
  have hm : j ∉ keysDown keys := by rw [he]; exact List.not_mem_nil
  rw [mem_keysDown] at hm
  simpa using fun hk => hm ⟨hj, hk⟩

/-- Whatever the free choice, `KEY_SELECT` gives the index of a key that is down (R132). -/
theorem keySelect_down {keys : Keys} (h : keys ≠ 0) : (keySelect keys).toNat < 16 ∧ keys.getLsbD (keySelect keys).toNat = true := by
  have hlt := Nat.mod_lt (Config.keyChoice keys) (length_keysDown_pos h)
  have hm := mem_keysDown.mp (List.getElem_mem hlt)
  have e : (keySelect keys).toNat = (keysDown keys)[Config.keyChoice keys % (keysDown keys).length] := by
    rw [keySelect, List.getD_eq_getElem _ _ hlt, BitVec.toNat_ofNat]
    exact Nat.mod_eq_of_lt (by omega)
  rw [e]; exact hm

/-- SET_KEY, bit by bit (R148). -/
theorem State.keyDown_setKey (s : State) (k : Nibble) (pressed : Bool) (j : Nat) (hj : j < 16) :
    (s.setKey k pressed).keyDown j = if j = k.toNat then pressed else s.keyDown j := by
  cases pressed <;> simp [State.setKey, State.keyDown, hj] <;>
    by_cases h : j = k.toNat <;> simp [h]

end Sys2Proof.Machine
end

