-- ==== Sys2Proof/Laws/PerInstr.lean ====
section
/-! SUPPORT. The fields of an encoded word, and the family RowMatch: the word of an instruction satisfies the mask and match of a row
of the opcode map, and that row builds the instruction back (R62, R64, R65). One lemma per constructor. -/

namespace Sys2Proof.Laws

/-- A word of format A under the mask of its rows, and its field. -/
theorem formatA_fields (op : Nibble) (nnn : Addr) :
    formatA op nnn &&& 0xF000 = op.setWidth 16 <<< 12 ∧ fieldNNN (formatA op nnn) = nnn := by
  constructor <;> (apply BitVec.eq_of_getLsbD_eq; intro j hj; interval_cases j <;> simp [formatA, fieldNNN])

/-- A word of format XB or X under the masks of its rows, and its fields. -/
theorem formatXB_fields (op : Nibble) (x : Reg) (nn : Byte) :
    formatXB op x nn &&& 0xF000 = op.setWidth 16 <<< 12 ∧
    formatXB op x nn &&& 0xF0FF = (op.setWidth 16 <<< 12) ||| nn.setWidth 16 ∧
    fieldX (formatXB op x nn) = x ∧ fieldNN (formatXB op x nn) = nn := by
  refine ⟨?_, ?_, ?_, ?_⟩ <;>
    (apply BitVec.eq_of_getLsbD_eq; intro j hj; interval_cases j <;> simp [formatXB, fieldX, fieldNN])

/-- A word of format XY or XYN under the masks of its rows, and its fields. -/
theorem formatXY_fields (op : Nibble) (x y : Reg) (n : Nibble) :
    formatXY op x y n &&& 0xF000 = op.setWidth 16 <<< 12 ∧
    formatXY op x y n &&& 0xF00F = (op.setWidth 16 <<< 12) ||| n.setWidth 16 ∧
    fieldX (formatXY op x y n) = x ∧ fieldY (formatXY op x y n) = y ∧ fieldN (formatXY op x y n) = n := by
  refine ⟨?_, ?_, ?_, ?_, ?_⟩ <;>
    (apply BitVec.eq_of_getLsbD_eq; intro j hj; interval_cases j <;> simp [formatXY, fieldX, fieldY, fieldN])

namespace RowMatch

/-- Some row of the opcode map matches the word of the instruction and builds the instruction back from it. -/
def Statement (i : Instr) : Prop :=
  ∃ r ∈ opcodeTable true, encode i &&& r.mask = r.pat ∧ r.build (encode i) = i

theorem of_rowA {op : Nibble} {pat : Word} {mk : Addr → Instr} {nnn : Addr} (hr : rowA pat mk ∈ opcodeTable true)
    (he : encode (mk nnn) = formatA op nnn) (hp : op.setWidth 16 <<< 12 = pat) : Statement (mk nnn) :=
  ⟨_, hr, by rw [he]; exact (formatA_fields op nnn).1.trans hp, by rw [he]; exact congrArg mk (formatA_fields op nnn).2⟩

theorem of_rowXB {op : Nibble} {pat : Word} {mk : Reg → Byte → Instr} {x : Reg} {nn : Byte} (hr : rowXB pat mk ∈ opcodeTable true)
    (he : encode (mk x nn) = formatXB op x nn) (hp : op.setWidth 16 <<< 12 = pat) : Statement (mk x nn) :=
  ⟨_, hr, by rw [he]; exact (formatXB_fields op x nn).1.trans hp, by
    rw [he]; show mk (fieldX _) (fieldNN _) = _; rw [(formatXB_fields op x nn).2.2.1, (formatXB_fields op x nn).2.2.2]⟩

theorem of_rowX {op : Nibble} {low : Byte} {pat : Word} {mk : Reg → Instr} {x : Reg} (hr : rowX pat mk ∈ opcodeTable true)
    (he : encode (mk x) = formatXB op x low) (hp : (op.setWidth 16 <<< 12) ||| low.setWidth 16 = pat) : Statement (mk x) :=
  ⟨_, hr, by rw [he]; exact (formatXB_fields op x low).2.1.trans hp, by
    rw [he]; show mk (fieldX _) = _; rw [(formatXB_fields op x low).2.2.1]⟩

theorem of_rowXY {op low : Nibble} {pat : Word} {mk : Reg → Reg → Instr} {x y : Reg}
    (hr : rowXY 0xF00F pat mk ∈ opcodeTable true) (he : encode (mk x y) = formatXY op x y low)
    (hp : (op.setWidth 16 <<< 12) ||| low.setWidth 16 = pat) : Statement (mk x y) :=
  ⟨_, hr, by rw [he]; exact (formatXY_fields op x y low).2.1.trans hp, by
    rw [he]; show mk (fieldX _) (fieldY _) = _
    rw [(formatXY_fields op x y low).2.2.1, (formatXY_fields op x y low).2.2.2.1]⟩

theorem cls : Statement .cls := ⟨⟨0xFFFF, 0x00E0, fun _ => .cls⟩, by simp [opcodeTable, rowsFlow], by decide, rfl⟩
theorem ret : Statement .ret := ⟨⟨0xFFFF, 0x00EE, fun _ => .ret⟩, by simp [opcodeTable, rowsFlow], by decide, rfl⟩
theorem jp (nnn : Addr) : Statement (.jp nnn) :=
  of_rowA (by simp [opcodeTable, rowsFlow, rowsAlu, rowsMid, rowsX]; tauto) rfl (by decide)
theorem call (nnn : Addr) : Statement (.call nnn) :=
  of_rowA (by simp [opcodeTable, rowsFlow, rowsAlu, rowsMid, rowsX]; tauto) rfl (by decide)
theorem ldI (nnn : Addr) : Statement (.ldI nnn) :=
  of_rowA (by simp [opcodeTable, rowsFlow, rowsAlu, rowsMid, rowsX]; tauto) rfl (by decide)
theorem jpV0 (nnn : Addr) : Statement (.jpV0 nnn) :=
  of_rowA (by simp [opcodeTable, rowsFlow, rowsAlu, rowsMid, rowsX]; tauto) rfl (by decide)
theorem seImm (x : Reg) (nn : Byte) : Statement (.seImm x nn) :=
  of_rowXB (by simp [opcodeTable, rowsFlow, rowsAlu, rowsMid, rowsX]; tauto) rfl (by decide)
theorem sneImm (x : Reg) (nn : Byte) : Statement (.sneImm x nn) :=
  of_rowXB (by simp [opcodeTable, rowsFlow, rowsAlu, rowsMid, rowsX]; tauto) rfl (by decide)
theorem ldImm (x : Reg) (nn : Byte) : Statement (.ldImm x nn) :=
  of_rowXB (by simp [opcodeTable, rowsFlow, rowsAlu, rowsMid, rowsX]; tauto) rfl (by decide)
theorem addImm (x : Reg) (nn : Byte) : Statement (.addImm x nn) :=
  of_rowXB (by simp [opcodeTable, rowsFlow, rowsAlu, rowsMid, rowsX]; tauto) rfl (by decide)
theorem rnd (x : Reg) (nn : Byte) : Statement (.rnd x nn) :=
  of_rowXB (by simp [opcodeTable, rowsFlow, rowsAlu, rowsMid, rowsX]; tauto) rfl (by decide)
theorem seReg (x y : Reg) : Statement (.seReg x y) :=
  of_rowXY (by simp [opcodeTable, rowsFlow, rowsAlu, rowsMid, rowsX]; tauto) rfl (by decide)
theorem ldReg (x y : Reg) : Statement (.ldReg x y) :=
  of_rowXY (by simp [opcodeTable, rowsFlow, rowsAlu, rowsMid, rowsX]; tauto) rfl (by decide)
theorem orReg (x y : Reg) : Statement (.orReg x y) :=
  of_rowXY (by simp [opcodeTable, rowsFlow, rowsAlu, rowsMid, rowsX]; tauto) rfl (by decide)
theorem andReg (x y : Reg) : Statement (.andReg x y) :=
  of_rowXY (by simp [opcodeTable, rowsFlow, rowsAlu, rowsMid, rowsX]; tauto) rfl (by decide)
theorem xorReg (x y : Reg) : Statement (.xorReg x y) :=
  of_rowXY (by simp [opcodeTable, rowsFlow, rowsAlu, rowsMid, rowsX]; tauto) rfl (by decide)
theorem addReg (x y : Reg) : Statement (.addReg x y) :=
  of_rowXY (by simp [opcodeTable, rowsFlow, rowsAlu, rowsMid, rowsX]; tauto) rfl (by decide)
theorem sub (x y : Reg) : Statement (.sub x y) :=
  of_rowXY (by simp [opcodeTable, rowsFlow, rowsAlu, rowsMid, rowsX]; tauto) rfl (by decide)
theorem shr (x y : Reg) : Statement (.shr x y) :=
  of_rowXY (by simp [opcodeTable, rowsFlow, rowsAlu, rowsMid, rowsX]; tauto) rfl (by decide)
theorem subn (x y : Reg) : Statement (.subn x y) :=
  of_rowXY (by simp [opcodeTable, rowsFlow, rowsAlu, rowsMid, rowsX]; tauto) rfl (by decide)
theorem shl (x y : Reg) : Statement (.shl x y) :=
  of_rowXY (by simp [opcodeTable, rowsFlow, rowsAlu, rowsMid, rowsX]; tauto) rfl (by decide)
theorem sneReg (x y : Reg) : Statement (.sneReg x y) :=
  of_rowXY (by simp [opcodeTable, rowsFlow, rowsAlu, rowsMid, rowsX]; tauto) rfl (by decide)
theorem skp (x : Reg) : Statement (.skp x) :=
  of_rowX (by simp [opcodeTable, rowsFlow, rowsAlu, rowsMid, rowsX]; tauto) rfl (by decide)
theorem sknp (x : Reg) : Statement (.sknp x) :=
  of_rowX (by simp [opcodeTable, rowsFlow, rowsAlu, rowsMid, rowsX]; tauto) rfl (by decide)
theorem ldVxDT (x : Reg) : Statement (.ldVxDT x) :=
  of_rowX (by simp [opcodeTable, rowsFlow, rowsAlu, rowsMid, rowsX]; tauto) rfl (by decide)
theorem ldVxK (x : Reg) : Statement (.ldVxK x) :=
  of_rowX (by simp [opcodeTable, rowsFlow, rowsAlu, rowsMid, rowsX]; tauto) rfl (by decide)
theorem ldDTVx (x : Reg) : Statement (.ldDTVx x) :=
  of_rowX (by simp [opcodeTable, rowsFlow, rowsAlu, rowsMid, rowsX]; tauto) rfl (by decide)
theorem ldSTVx (x : Reg) : Statement (.ldSTVx x) :=
  of_rowX (by simp [opcodeTable, rowsFlow, rowsAlu, rowsMid, rowsX]; tauto) rfl (by decide)
theorem addI (x : Reg) : Statement (.addI x) :=
  of_rowX (by simp [opcodeTable, rowsFlow, rowsAlu, rowsMid, rowsX]; tauto) rfl (by decide)
theorem ldF (x : Reg) : Statement (.ldF x) :=
  of_rowX (by simp [opcodeTable, rowsFlow, rowsAlu, rowsMid, rowsX]; tauto) rfl (by decide)
theorem ldB (x : Reg) : Statement (.ldB x) :=
  of_rowX (by simp [opcodeTable, rowsFlow, rowsAlu, rowsMid, rowsX]; tauto) rfl (by decide)
theorem stRegs (x : Reg) : Statement (.stRegs x) :=
  of_rowX (by simp [opcodeTable, rowsFlow, rowsAlu, rowsMid, rowsX]; tauto) rfl (by decide)
theorem ldRegs (x : Reg) : Statement (.ldRegs x) :=
  of_rowX (by simp [opcodeTable, rowsFlow, rowsAlu, rowsMid, rowsX]; tauto) rfl (by decide)
theorem drw (x y : Reg) (n : Nibble) : Statement (.drw x y n) :=
  ⟨⟨0xF000, 0xD000, fun w => .drw (fieldX w) (fieldY w) (fieldN w)⟩, by simp [opcodeTable, rowsMid],
    (formatXY_fields 0xD x y n).1.trans (by decide), by
    have h := (formatXY_fields 0xD x y n).2.2
    show Instr.drw (fieldX (formatXY 0xD x y n)) (fieldY (formatXY 0xD x y n)) (fieldN (formatXY 0xD x y n)) = _
    rw [h.1, h.2.1, h.2.2]⟩

end RowMatch

end Sys2Proof.Laws
end

