-- ==== Sys2Proof/Laws/Registers.lean ====
section
/-! SUPPORT. The laws of the register file and of the return stack. -/

namespace Sys2Proof.Machine

/-- A read after a write: the byte written there, every other register as before (R11). -/
theorem State.readV_writeV (s : State) (x : Reg) (b : Byte) (r : Reg) :
    (s.writeV x b).readV r = if r = x then b else s.readV r := by
  unfold State.readV State.writeV
  by_cases h : r = x
  · subst h; simp
  · have : x.toNat ≠ r.toNat := fun e => h (BitVec.eq_of_toNat_eq e.symm)
    simp [h, Vector.getElem_set_ne _ _ this]

@[simp] theorem State.readV_writeV_same (s : State) (x : Reg) (b : Byte) : (s.writeV x b).readV x = b := by
  simp [State.readV_writeV]

theorem State.readV_writeV_ne (s : State) {x r : Reg} (b : Byte) (h : r ≠ x) : (s.writeV x b).readV r = s.readV r := by
  simp [State.readV_writeV, h]

/-- A load of several registers changes the register file alone (R115). -/
theorem State.writeVs_frame (bs : List Byte) (s : State) (k : Nat) :
    ∃ v', s.writeVs k bs = { s with v := v' } := by
  induction bs generalizing s k with
  | nil => exact ⟨s.v, rfl⟩
  | cons b bs ih =>
    simp only [State.writeVs]
    split
    · obtain ⟨v', h⟩ := ih (s.writeV (BitVec.ofNat 4 k) b) (k + 1)
      exact ⟨v', by rw [h]; rfl⟩
    · exact ⟨s.v, rfl⟩

/-- A read after a load of several registers: the byte at that offset, every other register as before (R115). -/
theorem State.readV_writeVs (bs : List Byte) (s : State) (k : Nat) (r : Reg) :
    (s.writeVs k bs).readV r = if h : k ≤ r.toNat ∧ r.toNat - k < bs.length then bs[r.toNat - k] else s.readV r := by
  induction bs generalizing s k with
  | nil => simp [State.writeVs]
  | cons b bs ih =>
    have hr := reg_lt r
    simp only [State.writeVs]
    split
    · rename_i hk
      rw [ih, State.readV_writeV]
      have hrk : r = BitVec.ofNat 4 k ↔ r.toNat = k := by
        rw [← BitVec.toNat_inj, BitVec.toNat_ofNat]; omega
      by_cases h1 : k + 1 ≤ r.toNat ∧ r.toNat - (k + 1) < bs.length
      · have h2 : k ≤ r.toNat ∧ r.toNat - k < (b :: bs).length := by simp only [List.length_cons]; omega
        rw [dif_pos h1, dif_pos h2]
        have : r.toNat - k = (r.toNat - (k + 1)) + 1 := by omega
        simp [this]
      · rw [dif_neg h1]
        by_cases he : r.toNat = k
        · have h2 : k ≤ r.toNat ∧ r.toNat - k < (b :: bs).length := by simp only [List.length_cons]; omega
          rw [if_pos (hrk.mpr he), dif_pos h2]; simp [he]
        · have h2 : ¬ (k ≤ r.toNat ∧ r.toNat - k < (b :: bs).length) := by simp only [List.length_cons]; omega
          rw [if_neg (fun e => he (hrk.mp e)), dif_neg h2]
    · rename_i hk
      have h2 : ¬ (k ≤ r.toNat ∧ r.toNat - k < (b :: bs).length) := by omega
      rw [dif_neg h2]

@[simp] theorem State.length_regsUpTo (s : State) (x : Reg) : (s.regsUpTo x).length = x.toNat + 1 := by simp [State.regsUpTo]

theorem State.getElem_regsUpTo (s : State) (x : Reg) (k : Nat) (h : k < (s.regsUpTo x).length) :
    (s.regsUpTo x)[k] = s.readV (BitVec.ofNat 4 k) := by simp [State.regsUpTo]

/-- Everything a push can answer (R82): none on a full stack; else the word in slot `SP`, the slots beside it kept. -/
theorem State.push_eq_none {s : State} {w : Word} : s.push w = none ↔ s.sp = 16 := by
  have := s.sp.isLt
  unfold State.push
  split
  · simp [Fin.ext_iff]; omega
  · simp [Fin.ext_iff]; omega

theorem State.push_eq_some {s t : State} {w : Word} (h : s.push w = some t) :
    ∃ hlt : s.sp.val < 16, t = { s with stack := s.stack.set s.sp.val w hlt, sp := ⟨s.sp.val + 1, Nat.succ_lt_succ hlt⟩ } := by
  unfold State.push at h
  split at h
  · rename_i hlt; exact ⟨hlt, by simpa using h.symm⟩
  · cases h

/-- Everything a pop can answer (R80): none on an empty stack; else the word below `SP`, every slot kept (R16). -/
theorem State.pop_eq_none {s : State} : s.pop = none ↔ s.sp = 0 := by
  unfold State.pop
  split <;> rename_i he <;> simp [he, Fin.ext_iff]

theorem State.pop_eq_some {s t : State} {w : Word} (h : s.pop = some (w, t)) :
    ∃ (k : Nat) (hk : k + 1 < 17), s.sp = ⟨k + 1, hk⟩ ∧ w = s.stack[k]'(Nat.lt_of_succ_lt_succ hk) ∧
      t = { s with sp := ⟨k, Nat.lt_of_succ_lt hk⟩ } := by
  unfold State.pop at h
  split at h
  · cases h
  · rename_i k hk he
    simp only [Option.some.injEq, Prod.mk.injEq] at h
    exact ⟨k, hk, he, h.1.symm, h.2.symm⟩

end Sys2Proof.Machine
end

