-- ==== Sys2Proof/Tests/Slice0.lean ====
section
/-! SUPPORT. The model's own tests. Decoding: one word per constructor, written out bit by bit from spec/30_encoding.md R62 and R65. One
step: at most two vectors per instruction from spec/95_test_vectors.md, named by their row there. Witnesses: states and operands that
meet the hypotheses of the statements, boundary values of their clauses among them. -/

namespace Sys2Proof.Tests

open Sys2Proof.Machine

/-! ## Well-formedness (R70) -/

/-- `8xy6` and `8xyE` are written without `y`; a term that names one is not what the assembler writes. -/
theorem test_wellformed_shr : (Instr.shr 1 2).wellFormed = false ∧ (Instr.shr 1 0).wellFormed = true := by decide
theorem test_wellformed_shl : (Instr.shl 1 2).wellFormed = false ∧ (Instr.shl 1 0).wellFormed = true := by decide

/-! ## Decoding and encoding, one word per constructor -/

theorem test_decode_cls : decodeWord 0b0000000011100000 = .ok (.cls) ∧ encode (.cls) = 0b0000000011100000 := by decide
theorem test_decode_ret : decodeWord 0b0000000011101110 = .ok (.ret) ∧ encode (.ret) = 0b0000000011101110 := by decide
theorem test_decode_jp : decodeWord 0b0001101010111100 = .ok (.jp 0xABC) ∧ encode (.jp 0xABC) = 0b0001101010111100 := by decide
theorem test_decode_call : decodeWord 0b0010001100000001 = .ok (.call 0x301) ∧ encode (.call 0x301) = 0b0010001100000001 := by decide
theorem test_decode_seImm : decodeWord 0b0011101000101010 = .ok (.seImm 10 0x2A) ∧ encode (.seImm 10 0x2A) = 0b0011101000101010 := by decide
theorem test_decode_sneImm : decodeWord 0b0100001101000011 = .ok (.sneImm 3 0x43) ∧ encode (.sneImm 3 0x43) = 0b0100001101000011 := by decide
theorem test_decode_seReg : decodeWord 0b0101000100100000 = .ok (.seReg 1 2) ∧ encode (.seReg 1 2) = 0b0101000100100000 := by decide
theorem test_decode_ldImm : decodeWord 0b0110101000000010 = .ok (.ldImm 10 0x02) ∧ encode (.ldImm 10 0x02) = 0b0110101000000010 := by decide
theorem test_decode_addImm : decodeWord 0b0111000011111111 = .ok (.addImm 0 0xFF) ∧ encode (.addImm 0 0xFF) = 0b0111000011111111 := by decide
theorem test_decode_ldReg : decodeWord 0b1000101010110000 = .ok (.ldReg 10 11) ∧ encode (.ldReg 10 11) = 0b1000101010110000 := by decide
theorem test_decode_orReg : decodeWord 0b1000101010110001 = .ok (.orReg 10 11) ∧ encode (.orReg 10 11) = 0b1000101010110001 := by decide
theorem test_decode_andReg : decodeWord 0b1000101010110010 = .ok (.andReg 10 11) ∧ encode (.andReg 10 11) = 0b1000101010110010 := by decide
theorem test_decode_xorReg : decodeWord 0b1000101010110011 = .ok (.xorReg 10 11) ∧ encode (.xorReg 10 11) = 0b1000101010110011 := by decide
theorem test_decode_addReg : decodeWord 0b1000101010110100 = .ok (.addReg 10 11) ∧ encode (.addReg 10 11) = 0b1000101010110100 := by decide
theorem test_decode_sub : decodeWord 0b1000101010110101 = .ok (.sub 10 11) ∧ encode (.sub 10 11) = 0b1000101010110101 := by decide
theorem test_decode_shr : decodeWord 0b1000101010110110 = .ok (.shr 10 11) ∧ encode (.shr 10 11) = 0b1000101010110110 := by decide
theorem test_decode_subn : decodeWord 0b1000101010110111 = .ok (.subn 10 11) ∧ encode (.subn 10 11) = 0b1000101010110111 := by decide
theorem test_decode_shl : decodeWord 0b1000101010111110 = .ok (.shl 10 11) ∧ encode (.shl 10 11) = 0b1000101010111110 := by decide
theorem test_decode_sneReg : decodeWord 0b1001000100100000 = .ok (.sneReg 1 2) ∧ encode (.sneReg 1 2) = 0b1001000100100000 := by decide
theorem test_decode_ldI : decodeWord 0b1010001011110000 = .ok (.ldI 0x2F0) ∧ encode (.ldI 0x2F0) = 0b1010001011110000 := by decide
theorem test_decode_jpV0 : decodeWord 0b1011001100000001 = .ok (.jpV0 0x301) ∧ encode (.jpV0 0x301) = 0b1011001100000001 := by decide
theorem test_decode_rnd : decodeWord 0b1100001100001111 = .ok (.rnd 3 0x0F) ∧ encode (.rnd 3 0x0F) = 0b1100001100001111 := by decide
theorem test_decode_drw : decodeWord 0b1101000100101111 = .ok (.drw 1 2 15) ∧ encode (.drw 1 2 15) = 0b1101000100101111 := by decide
theorem test_decode_skp : decodeWord 0b1110001010011110 = .ok (.skp 2) ∧ encode (.skp 2) = 0b1110001010011110 := by decide
theorem test_decode_sknp : decodeWord 0b1110001010100001 = .ok (.sknp 2) ∧ encode (.sknp 2) = 0b1110001010100001 := by decide
theorem test_decode_ldVxDT : decodeWord 0b1111010100000111 = .ok (.ldVxDT 5) ∧ encode (.ldVxDT 5) = 0b1111010100000111 := by decide
theorem test_decode_ldVxK : decodeWord 0b1111001000001010 = .ok (.ldVxK 2) ∧ encode (.ldVxK 2) = 0b1111001000001010 := by decide
theorem test_decode_ldDTVx : decodeWord 0b1111000000010101 = .ok (.ldDTVx 0) ∧ encode (.ldDTVx 0) = 0b1111000000010101 := by decide
theorem test_decode_ldSTVx : decodeWord 0b1111000100011000 = .ok (.ldSTVx 1) ∧ encode (.ldSTVx 1) = 0b1111000100011000 := by decide
theorem test_decode_addI : decodeWord 0b1111001000011110 = .ok (.addI 2) ∧ encode (.addI 2) = 0b1111001000011110 := by decide
theorem test_decode_ldF : decodeWord 0b1111010000101001 = .ok (.ldF 4) ∧ encode (.ldF 4) = 0b1111010000101001 := by decide
theorem test_decode_ldB : decodeWord 0b1111000000110011 = .ok (.ldB 0) ∧ encode (.ldB 0) = 0b1111000000110011 := by decide
theorem test_decode_stRegs : decodeWord 0b1111001001010101 = .ok (.stRegs 2) ∧ encode (.stRegs 2) = 0b1111001001010101 := by decide
theorem test_decode_ldRegs : decodeWord 0b1111001001100101 = .ok (.ldRegs 2) ∧ encode (.ldRegs 2) = 0b1111001001100101 := by decide

/-- The host's numbering (bit 0 the least significant of the word): `6A02` read through memory order (S7). -/
theorem test_tableWord : decodeTableWord 16 0x6A02 = some (.ldImm 10 0x02) ∧ decodeTableWord 16 0x5121 = none := by decide

/-! ## One step on a small state -/

/-- The word placed at the pc and one step taken: does the state after satisfy the test? A fault or refusal of the model satisfies none. -/
def ran (w : Nat) (s : State) (p : State → Bool) : Bool :=
  match step (s.withFetchWord 16 w) with
  | .next t => p t
  | _ => false

/-- One command performed: does the state after satisfy the test? -/
def did (c : Command) (s : State) (p : State → Bool) : Bool :=
  match perform c s with
  | .next t => p t
  | _ => false

/-- The fault latched is that one, and the pc is as it was. -/
def latched (cause w pc : Nat) (t : State) : Bool :=
  t.fault && t.faultCause.toNat == cause && t.faultIns.toNat == w && t.pc.toNat == pc

/-- The reset state with the named registers set. -/
def regs (l : List (Reg × Byte)) : State := l.foldl (fun s p => s.writeV p.1 p.2) State.reset

/-- The reset state with `SP` and the pc set. -/
def stacked (sp : Fin 17) (pc : Word) : State := { State.reset with sp := sp, pc := pc }

/-- The reset state with `I` and some bytes there. -/
def at300 (i : Word) (bs : List Byte) (l : List (Reg × Byte)) : State := ((regs l).setI i).poke i.toNat bs

/-- FL1. -/
theorem test_jp_FL1 : ran 0x1ABC (State.reset) (fun t => t.pc == 0x0ABC) = true := by decide
/-- FL5. -/
theorem test_call_FL5 : ran 0x2300 (stacked 0 0x204) (fun t => t.pc == 0x0300 && t.sp == 1 && t.stack[0] == 0x0204) = true := by decide
/-- FL7. -/
theorem test_call_FL7 : ran 0x2300 (stacked 16 0x204) (fun t => latched 2 0x2300 0x204 t && t.stack[15] == 0) = true := by decide
/-- FL10, D24. -/
theorem test_ret_FL10 : ran 0x00EE ({ stacked 2 0x300 with stack := (Vector.replicate 16 0).set 0 0x0204 |>.set 1 0x0400 }) (fun t => t.pc == 0x0402 && t.sp == 1 && t.stack[1] == 0x0400) = true := by decide
/-- FL9. -/
theorem test_ret_FL9 : ran 0x00EE (State.reset) (fun t => latched 3 0x00EE 0x200 t) = true := by decide
/-- FL12. -/
theorem test_jpV0_FL12 : ran 0xBFFF (regs [(0, 0xFF)]) (fun t => t.pc == 0x10FE) = true := by decide
/-- FL13. -/
theorem test_jpV0_FL13 : ran 0xB300 (regs [(3, 0x55)]) (fun t => t.pc == 0x0300) = true := by decide
/-- FL14. -/
theorem test_seImm_FL14 : ran 0x3342 (regs [(3, 0x42)]) (fun t => t.pc == 0x204) = true := by decide
/-- FL15. -/
theorem test_seImm_FL15 : ran 0x3343 (regs [(3, 0x42)]) (fun t => t.pc == 0x202) = true := by decide
/-- FL16. -/
theorem test_sneImm_FL16 : ran 0x4342 (regs [(3, 0x42)]) (fun t => t.pc == 0x202) = true := by decide
/-- FL17. -/
theorem test_sneImm_FL17 : ran 0x4343 (regs [(3, 0x42)]) (fun t => t.pc == 0x204) = true := by decide
/-- FL18. -/
theorem test_seReg_FL18 : ran 0x5120 (regs [(1, 7), (2, 7)]) (fun t => t.pc == 0x204) = true := by decide
/-- FL19. -/
theorem test_seReg_FL19 : ran 0x5120 (regs [(1, 7), (2, 8)]) (fun t => t.pc == 0x202) = true := by decide
/-- FL21. -/
theorem test_sneReg_FL21 : ran 0x9120 (regs [(1, 7), (2, 8)]) (fun t => t.pc == 0x204) = true := by decide
/-- FL22. -/
theorem test_sneReg_FL22 : ran 0x9120 (regs [(1, 7), (2, 7)]) (fun t => t.pc == 0x202) = true := by decide
/-- A2. -/
theorem test_ldImm_A2 : ran 0x6FFF (State.reset) (fun t => t.readV 15 == 0xFF && t.pc == 0x202) = true := by decide
/-- A4. -/
theorem test_addImm_A4 : ran 0x7001 (regs [(0, 0xFF)]) (fun t => t.readV 0 == 0 && t.readV 15 == 0) = true := by decide
/-- A6. -/
theorem test_ldReg_A6 : ran 0x8120 (regs [(2, 0x33)]) (fun t => t.readV 1 == 0x33 && t.readV 2 == 0x33) = true := by decide
/-- A8. -/
theorem test_orReg_A8 : ran 0x8121 (regs [(1, 0xF0), (2, 0x0F), (15, 1)]) (fun t => t.readV 1 == 0xFF && t.readV 15 == 1) = true := by decide
/-- A9. -/
theorem test_andReg_A9 : ran 0x8122 (regs [(1, 0xF0), (2, 0x3C), (15, 1)]) (fun t => t.readV 1 == 0x30 && t.readV 15 == 1) = true := by decide
/-- A10. -/
theorem test_xorReg_A10 : ran 0x8123 (regs [(1, 0xF0), (2, 0x3C), (15, 1)]) (fun t => t.readV 1 == 0xCC && t.readV 15 == 1) = true := by decide
/-- A13. -/
theorem test_addReg_A13 : ran 0x8124 (regs [(1, 0xFF), (2, 0x01)]) (fun t => t.readV 1 == 0 && t.readV 15 == 1) = true := by decide
/-- A30. -/
theorem test_addReg_A30 : ran 0x8F14 (regs [(15, 0xF0), (1, 0x20)]) (fun t => t.readV 15 == 0x10) = true := by decide
/-- A19. -/
theorem test_sub_A19 : ran 0x8125 (regs [(1, 7), (2, 7), (15, 1)]) (fun t => t.readV 1 == 0 && t.readV 15 == 0) = true := by decide
/-- A37. -/
theorem test_sub_A37 : ran 0x81F5 (regs [(1, 5), (15, 3)]) (fun t => t.readV 1 == 4 && t.readV 15 == 1) = true := by decide
/-- A22. -/
theorem test_shr_A22 : ran 0x8126 (regs [(1, 4), (2, 0xFF), (15, 1)]) (fun t => t.readV 1 == 2 && t.readV 2 == 0xFF && t.readV 15 == 0) = true := by decide
/-- A40. -/
theorem test_shr_A40 : ran 0x8F06 (regs [(15, 0xFF)]) (fun t => t.readV 15 == 0) = true := by decide
/-- A25. -/
theorem test_subn_A25 : ran 0x8127 (regs [(1, 5), (2, 3), (15, 1)]) (fun t => t.readV 1 == 0xFE && t.readV 15 == 0) = true := by decide
/-- A44. -/
theorem test_subn_A44 : ran 0x81F7 (regs [(1, 3), (15, 5)]) (fun t => t.readV 1 == 0xFE && t.readV 15 == 1) = true := by decide
/-- A27. -/
theorem test_shl_A27 : ran 0x810E (regs [(1, 0x81)]) (fun t => t.readV 1 == 2 && t.readV 15 == 1) = true := by decide
/-- A47. -/
theorem test_shl_A47 : ran 0x8F0E (regs [(15, 0xFF)]) (fun t => t.readV 15 == 2) = true := by decide
/-- A50: the byte `rnd` as an argument. -/
theorem test_rnd_A50 : (match rndWith 0xA7 3 0x0F State.reset with | .next t => t.readV 3 == 0x07 && t.pc == 0x202 | _ => false) = true := by
  decide
/-- A51: 0 for every `rnd`, the free value of the step among them. -/
theorem test_rnd_A51 (rnd : Byte) : (rndWith rnd 3 0x00 (regs [(3, 0x55)])) = .next ((regs [(3, 0x55)]).writeV 3 0).advance := by
  simp [rndWith, State.result]
/-- M1. -/
theorem test_ldI_M1 : ran 0xA2F0 (State.reset) (fun t => t.i == 0x02F0) = true := by decide
/-- M3. -/
theorem test_addI_M3 : ran 0xF21E ((regs [(2, 1)]).setI 0x0FFF) (fun t => t.i == 0x1000 && t.readV 15 == 0 && !t.fault) = true := by decide
/-- M4. -/
theorem test_addI_M4 : ran 0xF21E ((regs [(2, 2)]).setI 0xFFFF) (fun t => t.i == 0x0001) = true := by decide
/-- M5, with `FX29_BASE = 0` (log 3). -/
theorem test_ldF_M5 : ran 0xF429 (regs [(4, 0x0A)]) (fun t => t.i == 0x0032) = true := by decide
/-- M6, the half with `FX29_BASE = 0x050`. -/
theorem test_ldF_M6 : glyphAddress 0x050 0xFF = 0x054B := by decide
/-- M11. -/
theorem test_ldB_M11 : ran 0xF033 ((regs [(0, 123)]).setI 0x0FFD) (fun t => t.mem.read 0xFFD == 1 && t.mem.read 0xFFE == 2 && t.mem.read 0xFFF == 3 && t.i == 0x0FFD) = true := by decide
/-- M12. -/
theorem test_ldB_M12 : ran 0xF033 ((regs [(0, 123)]).setI 0x0FFE) (fun t => latched 4 0xF033 0x200 t && t.mem.read 0xFFE == 0 && t.mem.read 0xFFF == 0) = true := by decide
/-- M13. -/
theorem test_stRegs_M13 : ran 0xF255 ((regs [(0, 1), (1, 2), (2, 3), (3, 9)]).setI 0x0300) (fun t => t.mem.read 0x300 == 1 && t.mem.read 0x302 == 3 && t.mem.read 0x303 == 0 && t.i == 0x0303) = true := by decide
/-- M16. -/
theorem test_stRegs_M16 : ran 0xFF55 ((regs [(0, 1), (15, 16)]).setI 0x0FF1) (fun t => latched 4 0xFF55 0x200 t && t.mem.read 0xFF1 == 0 && t.i == 0x0FF1) = true := by decide
/-- M17. -/
theorem test_ldRegs_M17 : ran 0xF265 (at300 0x0300 [2, 3, 4, 5] []) (fun t => t.readV 0 == 2 && t.readV 2 == 4 && t.readV 3 == 0 && t.i == 0x0303) = true := by decide
/-- M18, with the font of log 6. -/
theorem test_ldRegs_M18 : ran 0xFF65 (State.reset.setI 0x0050) (fun t => t.readV 0 == 0xF0 && t.readV 5 == 0x20 && t.readV 15 == 0xF0 && t.i == 0x0060) = true := by decide
/-- D19. -/
theorem test_cls_D19 : ran 0x00E0 ({ regs [(15, 1)] with disp := 5 }) (fun t => !t.pix 0 0 && !t.pix 2 0 && t.readV 15 == 1 && t.pc == 0x202) = true := by decide +kernel
/-- D4. -/
theorem test_drw_D4 : ran 0xD012 (at300 0x20C [0xC3, 0x81] [(0, 10), (1, 5)]) (fun t => t.disp.getLsbD 330 && t.disp.getLsbD 331 && !t.disp.getLsbD 332 && t.disp.getLsbD 337 && t.disp.getLsbD 394 && t.disp.getLsbD 401 && t.readV 15 == 0) = true := by decide +kernel
/-- D17. -/
theorem test_drw_D17 : ran 0xDFF1 (at300 0x300 [0x80] [(15, 3)]) (fun t => t.disp.getLsbD 195 && t.readV 15 == 0) = true := by decide +kernel
/-- K1. -/
theorem test_skp_K1 : ran 0xE29E ({ regs [(2, 7)] with keys := 0x80 }) (fun t => t.pc == 0x204) = true := by decide
/-- K5. -/
theorem test_skp_K5 : ran 0xE29E (regs [(2, 0x10)]) (fun t => latched 6 0xE29E 0x200 t) = true := by decide
/-- K3. -/
theorem test_sknp_K3 : ran 0xE2A1 ({ regs [(2, 7)] with keys := 0x80 }) (fun t => t.pc == 0x202) = true := by decide
/-- K6. -/
theorem test_sknp_K6 : ran 0xE2A1 ({ regs [(2, 0x17)] with keys := 0x80 }) (fun t => latched 6 0xE2A1 0x200 t) = true := by decide
/-- K11. -/
theorem test_ldVxDT_K11 : ran 0xF507 ({ State.reset with dt := 0x3C }) (fun t => t.readV 5 == 0x3C && t.dt == 0x3C) = true := by decide
/-- K7. -/
theorem test_ldVxK_K7 : ran 0xF20A (State.reset) (fun t => t.pc == 0x200 && t.event == some .keyWait && t.readV 2 == 0) = true := by decide
/-- K8: with one key down the choice is forced, whatever the free value. -/
theorem test_ldVxK_K8 : exec (.ldVxK 2) { State.reset with keys := 0x80 } = .next ({ State.reset with keys := 0x80 }.writeV 2 7).advance := by
  have h : keysDown (0x80 : Keys) = [7] := by decide
  have hk : keySelect (0x80 : Keys) = 7 := by unfold keySelect; rw [h]; simp [Nat.mod_one]
  have hn : ¬ (0x80 : Keys) = 0 := by decide
  simp only [exec, execLdVxK, if_neg hn, hk]
/-- K12. -/
theorem test_ldDTVx_K12 : ran 0xF015 (regs [(0, 3)]) (fun t => t.dt == 3 && t.st == 0) = true := by decide
/-- K13. -/
theorem test_ldSTVx_K13 : ran 0xF118 (regs [(1, 2)]) (fun t => t.st == 2 && t.tone && t.event == none) = true := by decide
/-- K14. -/
theorem test_ldSTVx_K14 : ran 0xF118 ({ State.reset with st := 5 }) (fun t => t.st == 0 && !t.tone && t.event == none) = true := by decide

/-! ## Unmatched words, the other commands, what follows a fault -/

/-- X5: with `SP = 0` it still does not fault. -/
theorem test_unmatched_X5 : ran 0x0FEE (State.reset) (fun t => t.pc == 0x202 && t.event == some (.unknownOp 0x0FEE) && !t.fault) = true := by decide
/-- X7: it does not skip. -/
theorem test_unmatched_X7 : ran 0x5121 (regs [(1, 7), (2, 7)]) (fun t => t.pc == 0x202 && t.event == some (.unknownOp 0x5121)) = true := by decide
/-- FL26: an odd pc of `0xFFF` cannot be fetched. -/
theorem test_fetch_FL26 : did .step (stacked 0 0xFFF) (latched 1 0x0000 0xFFF) = true := by decide
/-- The fetch of an odd pc (section 2 of the vectors): `0x02A2` from the bytes `02 A2`. -/
theorem test_fetch_odd : ((stacked 0 0x201).poke 0x200 [0x6A, 0x02, 0xA2]).fetch = some 0x02A2 := by decide
/-- T4 and T5. -/
theorem test_tick_T4 : did .tick { State.reset with st := 1 } (fun t => t.st == 0 && t.event == some .toneOff && !t.tone) = true := by decide
theorem test_tick_T5 : did .tick { State.reset with st := 2 } (fun t => t.st == 1 && t.event == some .toneOn && t.tone) = true := by decide
/-- T8: a TICK acts while a fault is latched, a STEP does not. -/
theorem test_tick_T8 : did .tick { State.reset with fault := true, faultCause := 3, dt := 2, st := 1 }
    (fun t => t.dt == 1 && t.st == 0 && t.fault && t.faultCause == 3) = true := by decide
theorem test_step_faulted : did .step { State.reset with fault := true, faultCause := 3 } (fun t => t.pc == 0x200 && t.event == none) = true := by
  decide
/-- SET_KEY presses and releases one key (R148). -/
theorem test_setKey : did (.setKey 7 true) State.reset (fun t => t.keys == 0x80) = true ∧
    did (.setKey 7 false) { State.reset with keys := 0x81 } (fun t => t.keys == 0x01) = true := by decide
/-- S7: the four bytes land at `0x200`. -/
theorem test_loadProgram : did (.loadProgram [0x6A, 0x02, 0xA2, 0xF0]) State.reset
    (fun t => t.mem.read 0x200 == 0x6A && t.mem.read 0x203 == 0xF0 && t.mem.read 0x204 == 0) = true := by decide
/-- The script is followed in order, and its command is taken off (R145). -/
theorem test_script : (match step { State.reset with dt := 9, script := [.tick, .reset] } with
    | .next t => t.dt == 8 && t.script == [.reset] | _ => false) = true := by decide
/-- RESET leaves a fault and any state (H1). -/
theorem test_reset : did .reset { regs [(1, 5)] with fault := true, faultCause := 2, pc := 7, mem := [(0x300, 9)] }
    (fun t => t == State.reset) = true := by decide +kernel

/-! ## Witnesses: the hypotheses of the statements are met, at the boundary values of their clauses -/

section Witnesses

open Sys2Proof.Claim

theorem witness_OpcodeMap_row : ∃ r ∈ opcodeTable true, (0x5120 : Word) &&& r.mask = r.pat := by decide
theorem witness_OpcodeMap_unmatched : ∀ r ∈ opcodeTable true, (0x5121 : Word) &&& r.mask ≠ r.pat := by decide
theorem witness_OpcodeMap_fixedNibble : decodeWord 0x5120 = .ok (.seReg 1 2) ∧ decodeWord 0x9120 = .ok (.sneReg 1 2) := by decide
theorem witness_EncodingADecodedWord : decodeWord 0xD12F = .ok (.drw 1 2 15) := by decide

/-- A STEP at the highest pc that can be fetched, with an instruction there. -/
def topOfMem : State := (stacked 0 0xFFE).poke 0xFFE [0x60, 0x01]

theorem witness_StepRuns : topOfMem.nextCommand = .step ∧ topOfMem.fault = false ∧ topOfMem.pc.toNat ≤ 0xFFE ∧
    decodeWord (wordOfBytes (topOfMem.mem.read topOfMem.pc.toNat) (topOfMem.mem.read (topOfMem.pc.toNat + 1))) = .ok (.ldImm 0 1) := by
  decide
theorem witness_Fetch_length : decode [0x60, 0x01, 0xAA] = .ok (.ldImm 0 1, [0xAA]) := by decide
/-- FL25 and FL26: `0xFFE` is fetched, `0xFFF` is not. -/
theorem witness_Fetch : (topOfMem.fault = false ∧ topOfMem.fetch = some 0x6001) ∧
    (stacked 0 0xFFF).fault = false ∧ 0xFFE < (stacked 0 0xFFF).pc.toNat := by decide
theorem witness_UnmatchedWord : State.reset.fault = false ∧ State.reset.fetch = some 0x0000 ∧
    ∀ r ∈ opcodeTable true, (0x0000 : Word) &&& r.mask ≠ r.pat := by decide
/-- Each of the five outcomes of a STEP occurs. -/
theorem witness_FiveOutcomes :
    did .step { State.reset with fault := true, faultCause := 3 } (fun t => t.pc == 0x200) = true ∧
    did .step (stacked 0 0xFFF) (fun t => t.fault) = true ∧
    did .step (State.reset.poke 0x200 [0xF2, 0x0A]) (fun t => t.event == some .keyWait) = true ∧
    did .step State.reset (fun t => t.event == some (.unknownOp 0)) = true ∧
    did .step topOfMem (fun t => t.readV 0 == 1 && !t.fault) = true := by decide
theorem witness_AFaultedCore : ({ State.reset with fault := true, faultCause := 3 } : State).fault = true := rfl
/-- Each event is raised by some step. -/
theorem witness_Events :
    (∃ t, step (State.reset) = .next t ∧ t.event = some (.unknownOp 0)) ∧
    (∃ t, step (State.reset.withFetchWord 16 0xF20A) = .next t ∧ t.event = some .keyWait) ∧
    (∃ t, step { State.reset with script := [.tick], st := 2 } = .next t ∧ t.event = some .toneOn) ∧
    (∃ t, step { State.reset with script := [.tick], st := 1 } = .next t ∧ t.event = some .toneOff) :=
  ⟨⟨_, rfl, rfl⟩, ⟨_, rfl, rfl⟩, ⟨_, rfl, rfl⟩, ⟨_, rfl, rfl⟩⟩
theorem witness_Events_tooLarge :
    ∃ t, step { State.reset with script := [.loadProgram (List.replicate 3584 0)] } = .next t ∧ t.event = some .programTooLarge := by
  refine ⟨_, rfl, ?_⟩
  show (loadProgram (List.replicate 3584 0) _).event = _
  unfold loadProgram
  rw [if_pos (by rw [List.length_replicate]; decide)]
  rfl
theorem witness_APlacedInstruction : (stacked 0 0xFFE).pc.toNat ≤ 0xFFE := by decide

/-- Each execute-stage cause of R160 has a state and an instruction that raise it. -/
theorem witness_Faults_stack : faultCondition (.call 0x300) (stacked 16 0x204) .stackOverflow ∧
    faultCondition .ret State.reset .stackUnderflow := ⟨⟨⟨_, rfl⟩, rfl⟩, rfl, rfl⟩
theorem witness_Faults_mem : faultCondition (.ldB 0) (State.reset.setI 0xFFE) .memOutOfRange ∧
    faultCondition (.stRegs 15) (State.reset.setI 0xFF1) .memOutOfRange ∧
    faultCondition (.ldRegs 0) (State.reset.setI 0x1000) .memOutOfRange ∧
    faultCondition (.drw 0 1 2) (State.reset.setI 0xFFF) .memOutOfRange :=
  ⟨.inr (.inl ⟨0, rfl, by decide⟩), .inr (.inr ⟨15, .inl rfl, by decide⟩), .inr (.inr ⟨0, .inr rfl, by decide⟩),
    .inl ⟨0, 1, 2, rfl, by decide, by decide⟩⟩
theorem witness_Faults_key : faultCondition (.skp 2) (regs [(2, 16)]) .keyIndexOutOfRange ∧
    faultCondition (.sknp 2) (regs [(2, 16)]) .keyIndexOutOfRange := ⟨⟨2, .inl rfl, by decide⟩, 2, .inr rfl, by decide⟩
theorem witness_Faults_none : ∀ cause : FaultCause, ¬ faultCondition .cls State.reset cause := by
  intro cause; cases cause <;> simp [faultCondition]
theorem witness_Faults_fetch : (stacked 0 0xFFF).fault = false ∧ 0xFFE < (stacked 0 0xFFF).pc.toNat ∧
    ¬ 0xFFE < (stacked 0 0xFFE).pc.toNat := by decide

/-- The stack at its ends: empty, one entry, one free slot, full. -/
theorem witness_Stack : (stacked 0 0).sp.val = 0 ∧ (stacked 1 0).sp.val = 0 + 1 ∧ (stacked 16 0).sp.val = 15 + 1 ∧
    (stacked 15 0).sp.val < 16 ∧ (stacked 16 0).sp.val = 16 := by decide
/-- A CALL into the last slot and a state with the stack it left. -/
theorem witness_RetUndoesCall : ∃ t u : State, (stacked 15 0x204).sp.val < 16 ∧ exec (.call 0x300) (stacked 15 0x204) = .next t ∧
    u.sp = t.sp ∧ u.stack = t.stack ∧ u.pc = 0x900 :=
  ⟨_, { stacked 16 0x900 with stack := (Vector.replicate 16 0).set 15 0x204 }, by decide, rfl, rfl, rfl, rfl⟩
/-- Either arm of the skips: equal and different operands. -/
theorem witness_Skips : (regs [(3, 0x42)]).readV 3 = 0x42 ∧ (regs [(3, 0x42)]).readV 3 ≠ 0x43 ∧
    (regs [(1, 7), (2, 7)]).readV 1 = (regs [(1, 7), (2, 7)]).readV 2 ∧ (regs [(1, 7), (2, 8)]).readV 1 ≠ (regs [(1, 7), (2, 8)]).readV 2 := by
  decide
/-- The flag clauses where they meet: sum 255 and 256; operands equal and one apart; either bit shifted out. -/
theorem witness_Flags :
    (∃ t, exec (.addReg 1 2) (regs [(1, 0xFF), (2, 0)]) = .next t ∧ t.readV VF = 0) ∧
    (∃ t, exec (.addReg 1 2) (regs [(1, 0xFF), (2, 1)]) = .next t ∧ t.readV VF = 1) ∧
    (∃ t, exec (.sub 1 2) (regs [(1, 7), (2, 7)]) = .next t ∧ t.readV VF = 0) ∧
    (∃ t, exec (.sub 1 2) (regs [(1, 8), (2, 7)]) = .next t ∧ t.readV VF = 1) ∧
    (∃ t, exec (.shl 1 0) (regs [(1, 0x80)]) = .next t ∧ t.readV VF = 1) :=
  ⟨⟨_, rfl, by decide⟩, ⟨_, rfl, by decide⟩, ⟨_, rfl, by decide⟩, ⟨_, rfl, by decide⟩, ⟨_, rfl, by decide⟩⟩
theorem witness_FlagRegisterAsOperand : (1 : Reg) ≠ VF ∧ (2 : Reg) ≠ VF := by decide

/-- The range clauses of `Fx33`, `Fx55`, `Fx65` where they meet: the last byte at `0xFFF` and at `0x1000`. -/
theorem witness_Ranges :
    ((State.reset.setI 0xFFD).i.toNat + 2 ≤ 0xFFF ∧ 0xFFF < (State.reset.setI 0xFFE).i.toNat + 2) ∧
    ((State.reset.setI 0xFF0).i.toNat + (15 : Reg).toNat ≤ 0xFFF ∧ 0xFFF < (State.reset.setI 0xFF1).i.toNat + (15 : Reg).toNat) ∧
    ((State.reset.setI 0xFFF).i.toNat + (0 : Reg).toNat ≤ 0xFFF ∧ 0xFFF < (State.reset.setI 0x1000).i.toNat + (0 : Reg).toNat) := by decide
/-- `Fx55` over the word after it. -/
theorem witness_AStoreIsSeen : ∃ t : State, exec (.stRegs 1) ((regs [(0, 0x6A), (1, 0x02)]).setI 0x202) = .next t ∧
    ((regs [(0, 0x6A), (1, 0x02)]).setI 0x202).i.toNat + (1 : Reg).toNat ≤ 0xFFF ∧ (1 : Reg).toNat = (0 : Reg).toNat + 1 ∧
    (1 : Reg).toNat ≤ (1 : Reg).toNat ∧
    ((regs [(0, 0x6A), (1, 0x02)]).setI 0x202).i.toNat + (0 : Reg).toNat = ((regs [(0, 0x6A), (1, 0x02)]).setI 0x202).pc.toNat + 2 :=
  ⟨_, rfl, by decide, by decide, by decide, by decide⟩

/-- D16 and D15: a sprite that leaves the memory, and one that ends on its last byte; `n = 0` reads nothing (D7). -/
theorem witness_Drw_mem : spriteOutsideMem 2 (State.reset.setI 0xFFF) ∧ ¬ spriteOutsideMem 1 (State.reset.setI 0xFFF) ∧
    ¬ spriteOutsideMem 0 (State.reset.setI 0xFFFF) := by
  unfold spriteOutsideMem; decide
/-- D9 (column 64) and D10 (row 32): a set bit just outside the grid. -/
theorem witness_Drw_leaves :
    (¬ spriteOutsideMem 1 (at300 0x300 [0xF8] [(0, 60)]) ∧ spriteLeavesGrid 0 1 1 (at300 0x300 [0xF8] [(0, 60)])) ∧
    (¬ spriteOutsideMem 2 (at300 0x300 [0x80, 0x80] [(1, 31)]) ∧ spriteLeavesGrid 0 1 2 (at300 0x300 [0x80, 0x80] [(1, 31)])) := by
  unfold spriteOutsideMem
  exact ⟨⟨by decide, 0, 4, by decide, by decide, by decide, by decide⟩, by decide, 1, 0, by decide, by decide, by decide, by decide⟩
/-- D8 and D11: clear bits outside the grid do not matter; the set bits end at column 63 and at row 31. -/
theorem witness_Drw_inside :
    (¬ spriteOutsideMem 1 (at300 0x300 [0xF0] [(0, 60)]) ∧ ¬ spriteLeavesGrid 0 1 1 (at300 0x300 [0xF0] [(0, 60)])) ∧
    (¬ spriteOutsideMem 2 (at300 0x300 [0x80, 0] [(1, 31)]) ∧ ¬ spriteLeavesGrid 0 1 2 (at300 0x300 [0x80, 0] [(1, 31)])) := by
  have f : ∀ r < 1, ∀ c < 8, ((at300 0x300 [0xF0] [(0, 60)]).mem.read (0x300 + r)).getLsbD (7 - c) = true → 60 + c ≤ 63 := by decide
  have g : ∀ r < 2, ∀ c < 8, ((at300 0x300 [0x80, 0] [(1, 31)]).mem.read (0x300 + r)).getLsbD (7 - c) = true → 31 + r ≤ 31 := by decide
  refine ⟨⟨by unfold spriteOutsideMem; decide, ?_⟩, by unfold spriteOutsideMem; decide, ?_⟩
  · rintro ⟨r, c, hr, hc, hb, h⟩
    have hr : r < 1 := hr
    have h : 63 < 60 + c ∨ 31 < 0 + r := h
    have := f r hr c hc hb
    omega
  · rintro ⟨r, c, hr, hc, hb, h⟩
    have hr : r < 2 := hr
    have h : 63 < 0 + c ∨ 31 < 31 + r := h
    have := g r hr c hc hb
    omega
/-- Both collision clauses: a covered pixel that is clear (D1) and one that is set (D2). -/
theorem witness_Drw_collision :
    spriteCovers 0 1 1 (at300 0x300 [0x80] [(0, 3), (1, 2)]) 3 2 ∧ (at300 0x300 [0x80] [(0, 3), (1, 2)]).pix 3 2 = false ∧
    ({ at300 0x300 [0x80] [(0, 3), (1, 2)] with disp := BitVec.twoPow 2048 131 } : State).pix 3 2 = true :=
  ⟨⟨0, 0, by decide, by decide, by decide, by decide, by decide⟩, by decide +kernel, by decide +kernel⟩
/-- D12 under wrap: column 255 falls on column 63. -/
theorem witness_DrwUnderWrap : spriteCoversWrapped 0 1 1 (at300 0x300 [0x80] [(0, 255)]) 63 0 :=
  ⟨0, 0, by decide, by decide, by decide, by decide, by decide⟩
/-- The largest sprite in the last legal place (D18). -/
theorem witness_EachPixel : (List.replicate 15 (0xFF : Byte)).length ≤ 15 ∧
    offDisplay .reject (spriteCells 56 17 (List.replicate 15 0xFF)) = false := by decide +kernel
/-- S6: the sprite `80` drawn on a clear display. -/
theorem witness_DrawingTwice : (0 : Reg) ≠ VF ∧ (1 : Reg) ≠ VF ∧ (at300 0x300 [0x80] [(0, 3), (1, 2)]).fault = false ∧
    (match exec (.drw 0 1 1) (at300 0x300 [0x80] [(0, 3), (1, 2)]) with | .next t => t.fault == false | _ => false) = true := by
  decide +kernel
/-- The case log 21 tells of: every pixel under the sprite set before the first draw, so the second draw finds them clear. -/
theorem witness_DrawingTwice_noFlag :
    (match exec (.drw 0 1 1) { at300 0x300 [0x80] [(0, 3), (1, 2)] with disp := BitVec.twoPow 2048 131 } with
      | .next t => (match exec (.drw 0 1 1) t with | .next u => t.readV VF == 1 && u.readV VF == 0 && u.disp.getLsbD 131 | _ => false)
      | _ => false) = true := by decide +kernel

/-- Key indices 15 and 16; no key and some key down. -/
theorem witness_Keys : ((regs [(2, 15)]).readV 2).toNat ≤ 15 ∧ 15 < ((regs [(2, 16)]).readV 2).toNat ∧ State.reset.keys = 0 ∧
    ({ State.reset with keys := 0x8000 } : State).keys ≠ 0 := by decide
/-- The sound timer at 0, 1, 2. -/
theorem witness_Tick : State.reset.st.toNat = 0 ∧ ({ State.reset with st := 1 } : State).st.toNat = 1 ∧
    2 ≤ ({ State.reset with st := 2 } : State).st.toNat := by decide
/-- The longest program that is taken and the shortest that is refused (H3, H4). -/
theorem witness_LoadProgram : (List.replicate 3583 (0 : Byte)).length ≤ 3583 ∧ 3583 < (List.replicate 3584 (0 : Byte)).length := by
  rw [List.length_replicate, List.length_replicate]; decide

theorem witness_OnlyListed_register : (∃ t, exec (.addReg 1 2) State.reset = .next t) ∧ ¬ mayWriteV 3 (.addReg 1 2) :=
  ⟨⟨_, rfl⟩, by simp [mayWriteV, VF]⟩
/-- Each listed writer of a special register does write it somewhere. -/
theorem witness_OnlyListed_special :
    (∃ t, exec (.ldI 0x2F0) State.reset = .next t ∧ t.i ≠ State.reset.i) ∧
    (∃ t, exec .ret (stacked 1 0x300) = .next t ∧ t.sp ≠ (stacked 1 0x300).sp) ∧
    (∃ t, exec (.call 0x300) State.reset = .next t ∧ t.sp ≠ State.reset.sp ∧ t.stack ≠ State.reset.stack) ∧
    (∃ t, exec (.ldDTVx 0) (regs [(0, 3)]) = .next t ∧ t.dt ≠ (regs [(0, 3)]).dt) ∧
    (∃ t, exec (.ldSTVx 0) (regs [(0, 3)]) = .next t ∧ t.st ≠ (regs [(0, 3)]).st) :=
  ⟨⟨_, rfl, by decide⟩, ⟨_, rfl, by decide⟩, ⟨_, rfl, by decide, by decide⟩, ⟨_, rfl, by decide⟩, ⟨_, rfl, by decide⟩⟩
theorem witness_OnlyListed_storage :
    (∃ t, exec (.ldB 0) ((regs [(0, 234)]).setI 0x300) = .next t ∧ t.mem ≠ ((regs [(0, 234)]).setI 0x300).mem) ∧
    (∃ t, exec .cls { State.reset with disp := 5 } = .next t ∧ t.disp ≠ 5) :=
  ⟨⟨_, rfl, by decide⟩, ⟨_, rfl, by decide +kernel⟩⟩
theorem witness_PcMoves : ∃ t, exec (.jpV0 0xFFF) (regs [(0, 0xFF)]) = .next t ∧ t.pc = 0x10FE := ⟨_, rfl, by decide⟩
/-- A state that meets the invariants away from reset (a CALL outstanding, a cell stored) and a step from it. -/
theorem witness_Inv : ({ State.reset with mem := [(0x200, 0x60), (0x300, 9)], sp := 1, pc := 0x200 } : State).Inv ∧
    ∃ t, step { State.reset with mem := [(0x200, 0x60), (0x300, 9)], sp := 1, pc := 0x200 } = .next t ∧ t.pc = 0x202 :=
  ⟨⟨by decide, ⟨by decide, by decide⟩, by decide, fun k h hk => by
    obtain rfl : k = 0 := by simpa using hk
    exact (by decide : (0 : Word).toNat ≤ 0xFFE)⟩, _, rfl, by decide⟩
theorem witness_Timers : (∃ t, exec .cls State.reset = .next t) ∧
    ∀ x, (Instr.cls) ≠ .ldVxDT x ∧ Instr.cls ≠ .ldDTVx x ∧ Instr.cls ≠ .ldSTVx x := ⟨⟨_, rfl⟩, fun x => by simp⟩
/-- FL2: the jump to itself at `0x200`. -/
theorem witness_Finished : (State.reset.poke 0x200 [0x12, 0x00]).finished := ⟨rfl, 0x200, by decide, by decide⟩

/-- An instruction that is not `Cxnn`, and a state whose fetched word is not one (the zero word, unmatched). -/
theorem witness_OnlyRndReads : (∀ x nn, (Instr.addReg 1 2) ≠ .rnd x nn) ∧ (∃ t, exec (.addReg 1 2) State.reset = .next t) ∧
    (∀ ins x nn, State.reset.fetch = some ins → decodeWord ins ≠ .ok (.rnd x nn)) ∧ ∃ t, perform .step State.reset = .next t := by
  refine ⟨fun x nn h => (nomatch h), ⟨_, rfl⟩, fun ins x nn h hd => ?_, ⟨_, rfl⟩⟩
  have hf : State.reset.fetch = some 0x0000 := by decide
  have hu : decodeWord 0x0000 = .error (.unmatched 0x0000) := by decide
  obtain rfl : (0x0000 : Word) = ins := by rw [hf] at h; exact Option.some.inj h
  rw [hu] at hd
  cases hd

end Witnesses

end Sys2Proof.Tests
end

section
/-! SUPPORT. The opcode map as a relation between words and instructions (R64, R65): its rows are pairwise disjoint, so what the
decoder answers depends on no order of the rows, and every row builds an instruction whose encoding is the word it was built from. -/

namespace Sys2Proof.Laws

/-! ## One row at most matches (R64) -/

/-- Two rows that ask for different bits where both look match no word in common. -/
theorem not_both_match {p q : OpRow} (h : p.pat &&& q.mask ≠ q.pat &&& p.mask) (w : Word) :
    ¬ (w &&& p.mask = p.pat ∧ w &&& q.mask = q.pat) := by
  rintro ⟨hp, hq⟩
  apply h
  rw [← hp, ← hq]
  ac_rfl

/-- The rows of R65 match pairwise disjoint sets of words (R64). -/
theorem opcodeTable_disjoint :
    (opcodeTable true).Pairwise (fun p q => ∀ w : Word, ¬ (w &&& p.mask = p.pat ∧ w &&& q.mask = q.pat)) := by
  have hbits : (opcodeTable true).Pairwise (fun p q => p.pat &&& q.mask ≠ q.pat &&& p.mask) := by decide
  exact hbits.imp fun h => not_both_match h

/-- The row that matches a word is the only one (R64). -/
theorem matching_row_unique {w : Word} {p q : OpRow} (hp : p ∈ opcodeTable true) (hq : q ∈ opcodeTable true)
    (hwp : w &&& p.mask = p.pat) (hwq : w &&& q.mask = q.pat) : p = q := by
  have h : ∀ ⦃p⦄, p ∈ opcodeTable true → ∀ ⦃q⦄, q ∈ opcodeTable true →
      w &&& p.mask = p.pat → w &&& q.mask = q.pat → p = q :=
    List.Pairwise.forall_of_forall_of_flip (fun _ _ _ _ => rfl)
      (opcodeTable_disjoint.imp fun hd hp hq => absurd ⟨hp, hq⟩ (hd w))
      (opcodeTable_disjoint.imp fun hd hq hp => absurd ⟨hp, hq⟩ (hd w))
  exact h hp hq hwp hwq

/-! ## What the decoder answers (R64, R66) -/

/-- A word decodes to an instruction exactly when some row matches it and builds that instruction (R64). -/
theorem decodeWord_eq_ok_iff {w : Word} {i : Instr} :
    decodeWord w = .ok i ↔ ∃ r ∈ opcodeTable true, w &&& r.mask = r.pat ∧ r.build w = i := by
  simp only [decodeWord, decodeWordWith, Config.strictPatterns]
  cases hf : (opcodeTable true).find? (fun r => w &&& r.mask == r.pat) with
  | none =>
    have hnone : ∀ r ∈ opcodeTable true, w &&& r.mask ≠ r.pat := by simpa using hf
    constructor
    · intro h
      cases h
    · rintro ⟨r, hr, hw, -⟩
      exact absurd hw (hnone r hr)
  | some p =>
    have hp := List.mem_of_find?_eq_some hf
    have hwp : w &&& p.mask = p.pat := by simpa using List.find?_some hf
    constructor
    · intro h
      exact ⟨p, hp, hwp, Except.ok.inj h⟩
    · rintro ⟨r, hr, hw, rfl⟩
      rw [matching_row_unique hp hr hwp hw]

/-- A word is rejected, by name, exactly when no row matches it (R66). -/
theorem decodeWord_eq_unmatched_iff {w : Word} :
    decodeWord w = .error (.unmatched w) ↔ ∀ r ∈ opcodeTable true, w &&& r.mask ≠ r.pat := by
  constructor
  · intro h r hr hw
    have hok := decodeWord_eq_ok_iff.mpr ⟨r, hr, hw, rfl⟩
    rw [h] at hok
    cases hok
  · intro h
    have hnone : (opcodeTable true).find? (fun r => w &&& r.mask == r.pat) = none := by simpa using h
    simp only [decodeWord, decodeWordWith, Config.strictPatterns, hnone]

/-! ## A word is the encoding of what a row builds from it (R62, R65) -/

/-- A word with the high nibble `op` is the format A word of its own field. -/
theorem formatA_fieldNNN {w : Word} {op : Nibble} (h : w &&& (0xF000 : Word) = op.setWidth 16 <<< 12) : formatA op (fieldNNN w) = w := by
  rw [formatA, ← h]
  apply BitVec.eq_of_getLsbD_eq; intro j hj; interval_cases j <;> simp [fieldNNN]

/-- A word with the high nibble `op` is the format XB word of its own fields. -/
theorem formatXB_fieldX_fieldNN {w : Word} {op : Nibble} (h : w &&& (0xF000 : Word) = op.setWidth 16 <<< 12) :
    formatXB op (fieldX w) (fieldNN w) = w := by
  rw [formatXB, ← h]
  apply BitVec.eq_of_getLsbD_eq; intro j hj; interval_cases j <;> simp [fieldX, fieldNN]

/-- A word with the high nibble `op` and the low byte `low` is the format X word of its own field. -/
theorem formatXB_fieldX {w : Word} {op : Nibble} {low : Byte} (h : w &&& (0xF0FF : Word) = (op.setWidth 16 <<< 12) ||| low.setWidth 16) :
    formatXB op (fieldX w) low = w := by
  have hsum : formatXB op (fieldX w) low = ((fieldX w).setWidth 16 <<< 8) ||| (w &&& (0xF0FF : Word)) := by
    rw [h, formatXB]; ac_rfl
  rw [hsum]
  apply BitVec.eq_of_getLsbD_eq; intro j hj; interval_cases j <;> simp [fieldX]

/-- A word with the outer nibbles `op` and `low` is the format XY word of its own fields. -/
theorem formatXY_fieldX_fieldY {w : Word} {op low : Nibble}
    (h : w &&& (0xF00F : Word) = (op.setWidth 16 <<< 12) ||| low.setWidth 16) : formatXY op (fieldX w) (fieldY w) low = w := by
  have hsum : formatXY op (fieldX w) (fieldY w) low =
      ((fieldX w).setWidth 16 <<< 8) ||| ((fieldY w).setWidth 16 <<< 4) ||| (w &&& (0xF00F : Word)) := by
    rw [h, formatXY]; ac_rfl
  rw [hsum]
  apply BitVec.eq_of_getLsbD_eq; intro j hj; interval_cases j <;> simp [fieldX, fieldY]

/-- A word with the high nibble `op` is the format XYN word of its own fields. -/
theorem formatXY_fieldX_fieldY_fieldN {w : Word} {op : Nibble} (h : w &&& (0xF000 : Word) = op.setWidth 16 <<< 12) :
    formatXY op (fieldX w) (fieldY w) (fieldN w) = w := by
  rw [formatXY, ← h]
  apply BitVec.eq_of_getLsbD_eq; intro j hj; interval_cases j <;> simp [fieldX, fieldY, fieldN]

/-- The fixed low nibble 0 of `5xy0` and `9xy0` (R65). -/
theorem formatXY_zero_mod (op : Nibble) (x y : Reg) : (formatXY op x y 0x0).toNat % 16 = 0 := by
  simp only [toNat_formatXY, BitVec.ofNat_eq_ofNat, BitVec.toNat_ofNat]
  omega

/-- Every word the row matches is the encoding of the instruction the row builds from it. -/
def EncodesBack (r : OpRow) : Prop := ∀ w : Word, w &&& r.mask = r.pat → encode (r.build w) = w

theorem encodesBack_rowA {op : Nibble} {pat : Word} {mk : Addr → Instr} (he : ∀ nnn, encode (mk nnn) = formatA op nnn)
    (hp : pat = op.setWidth 16 <<< 12) : EncodesBack (rowA pat mk) :=
  fun w hw => (he (fieldNNN w)).trans (formatA_fieldNNN (hw.trans hp))

theorem encodesBack_rowXB {op : Nibble} {pat : Word} {mk : Reg → Byte → Instr} (he : ∀ x nn, encode (mk x nn) = formatXB op x nn)
    (hp : pat = op.setWidth 16 <<< 12) : EncodesBack (rowXB pat mk) :=
  fun w hw => (he (fieldX w) (fieldNN w)).trans (formatXB_fieldX_fieldNN (hw.trans hp))

theorem encodesBack_rowX {op : Nibble} {low : Byte} {pat : Word} {mk : Reg → Instr} (he : ∀ x, encode (mk x) = formatXB op x low)
    (hp : pat = (op.setWidth 16 <<< 12) ||| low.setWidth 16) : EncodesBack (rowX pat mk) :=
  fun w hw => (he (fieldX w)).trans (formatXB_fieldX (hw.trans hp))

theorem encodesBack_rowXY {op low : Nibble} {pat : Word} {mk : Reg → Reg → Instr}
    (he : ∀ x y, encode (mk x y) = formatXY op x y low) (hp : pat = (op.setWidth 16 <<< 12) ||| low.setWidth 16) :
    EncodesBack (rowXY 0xF00F pat mk) :=
  fun w hw => (he (fieldX w) (fieldY w)).trans (formatXY_fieldX_fieldY (hw.trans hp))

/-- A row whose mask is the whole word matches its own pattern only. -/
theorem encodesBack_wholeWord {pat : Word} {i : Instr} (he : encode i = pat) : EncodesBack ⟨0xFFFF, pat, fun _ => i⟩ := by
  intro w hw
  exact he.trans (hw.symm.trans BitVec.and_allOnes)

theorem encodesBack_drw : EncodesBack ⟨0xF000, 0xD000, fun w => .drw (fieldX w) (fieldY w) (fieldN w)⟩ :=
  fun _ hw => formatXY_fieldX_fieldY_fieldN hw

theorem encodesBack_rowsFlow : ∀ r ∈ rowsFlow true, EncodesBack r := by
  simp only [rowsFlow, List.forall_mem_cons]
  exact ⟨encodesBack_wholeWord rfl, encodesBack_wholeWord rfl, encodesBack_rowA (fun _ => rfl) rfl,
    encodesBack_rowA (fun _ => rfl) rfl, encodesBack_rowXB (fun _ _ => rfl) rfl, encodesBack_rowXB (fun _ _ => rfl) rfl,
    encodesBack_rowXY (fun _ _ => rfl) rfl, List.forall_mem_nil _⟩

theorem encodesBack_rowsAlu : ∀ r ∈ rowsAlu, EncodesBack r := by
  simp only [rowsAlu, List.forall_mem_cons]
  refine ⟨encodesBack_rowXB (fun _ _ => rfl) rfl, encodesBack_rowXB (fun _ _ => rfl) rfl, ?_, ?_, ?_, ?_, ?_, ?_, ?_, ?_, ?_,
    List.forall_mem_nil _⟩
  all_goals exact encodesBack_rowXY (fun _ _ => rfl) rfl

theorem encodesBack_rowsMid : ∀ r ∈ rowsMid true, EncodesBack r := by
  simp only [rowsMid, List.forall_mem_cons]
  exact ⟨encodesBack_rowXY (fun _ _ => rfl) rfl, encodesBack_rowA (fun _ => rfl) rfl, encodesBack_rowA (fun _ => rfl) rfl,
    encodesBack_rowXB (fun _ _ => rfl) rfl, encodesBack_drw, List.forall_mem_nil _⟩

theorem encodesBack_rowsX : ∀ r ∈ rowsX, EncodesBack r := by
  simp only [rowsX, List.forall_mem_cons]
  refine ⟨?_, ?_, ?_, ?_, ?_, ?_, ?_, ?_, ?_, ?_, ?_, List.forall_mem_nil _⟩
  all_goals exact encodesBack_rowX (fun _ => rfl) rfl

/-- All 34 rows of R65 encode back. -/
theorem encodesBack_of_mem {r : OpRow} (hr : r ∈ opcodeTable true) : EncodesBack r := by
  simp only [opcodeTable, List.mem_append] at hr
  rcases hr with ((hr | hr) | hr) | hr
  · exact encodesBack_rowsFlow r hr
  · exact encodesBack_rowsAlu r hr
  · exact encodesBack_rowsMid r hr
  · exact encodesBack_rowsX r hr

/-- A word that decodes is the encoding of what it decodes to. -/
theorem encode_of_decodeWord {w : Word} {i : Instr} (h : decodeWord w = .ok i) : encode i = w := by
  obtain ⟨r, hr, hw, rfl⟩ := decodeWord_eq_ok_iff.mp h
  exact encodesBack_of_mem hr w hw

end Sys2Proof.Laws

namespace Sys2Proof.Proofs

open Sys2Proof.Laws

/-- Settles O1: the rows are disjoint bit patterns, so the decoder's search finds the one row that matches; the words of the four
forms with fixed nibbles are read off the encoder. -/
theorem opcodeMapSelectsByMaskAndMatch : Obligations.OpcodeMapSelectsByMaskAndMatch := by
  unfold Obligations.OpcodeMapSelectsByMaskAndMatch
  refine ⟨rfl, opcodeTable_disjoint, fun w r hr hw => decodeWord_eq_ok_iff.mpr ⟨r, hr, hw, rfl⟩,
    fun w hw => decodeWord_eq_unmatched_iff.mpr hw, ?_, ?_, ?_⟩
  · rintro w x y (h | h)
    · rw [← encode_of_decodeWord h]; exact formatXY_zero_mod 0x5 x y
    · rw [← encode_of_decodeWord h]; exact formatXY_zero_mod 0x9 x y
  · refine fun w => ⟨fun h => (encode_of_decodeWord h).symm, ?_⟩
    rintro rfl
    decide
  · refine fun w => ⟨fun h => (encode_of_decodeWord h).symm, ?_⟩
    rintro rfl
    decide

end Sys2Proof.Proofs
end

section
/-! SUPPORT. The two bytes of an instruction and the fetch of a STEP (R43, R60, R68). -/

namespace Sys2Proof.Laws

open Sys2Proof.Machine

/-- The decoder takes two bytes, big-endian, and leaves the others (R43, R60). -/
theorem decode_eq_ok_iff {bytes rest : List Byte} {i : Instr} :
    decode bytes = .ok (i, rest) ↔ ∃ hi lo, bytes = hi :: lo :: rest ∧ decodeWord (wordOfBytes hi lo) = .ok i := by
  match bytes with
  | [] => simp [decode]
  | [_] => simp [decode]
  | hi :: lo :: tail =>
    cases h : decodeWord (wordOfBytes hi lo) with
    | error e => simp [decode, h]
    | ok j => simp [decode, h, and_comm]

/-- Up to `0xFFE` both bytes are inside `MEM` and the fetch answers (R60). -/
theorem fetch_of_le {s : State} (h : s.pc.toNat ≤ 0xFFE) :
    s.fetch = some (wordOfBytes (s.mem.read s.pc.toNat) (s.mem.read (s.pc.toNat + 1))) := by
  have hin : outsideMem s.pc.toNat 2 = false := (outsideMem_eq_false _ _).mpr (by omega)
  simp [State.fetch, hin]

/-- Above `0xFFE` there is no word to fetch (R60). -/
theorem fetch_of_gt {s : State} (h : 0xFFE < s.pc.toNat) : s.fetch = none := by
  have hout : outsideMem s.pc.toNat 2 = true := (outsideMem_eq_true _ _).mpr (by omega)
  simp [State.fetch, hout]

/-- A STEP of a core with no fault latched runs the word it fetched (R68). -/
theorem stepCommand_of_fetch {s : State} {ins : Word} (hf : s.fault = false) (h : s.fetch = some ins) :
    stepCommand s = runWord ins s := by
  simp [stepCommand, hf, h]

/-- A STEP with no word to fetch takes FETCH_OUT_OF_RANGE with the word 0 (R22, R60). -/
theorem stepCommand_of_no_fetch {s : State} (hf : s.fault = false) (h : s.fetch = none) :
    stepCommand s = .next (s.raise .fetchOutOfRange 0) := by
  simp [stepCommand, hf, h]

/-- A word that decodes is executed (R68). -/
theorem runWord_of_decodeWord {ins : Word} {i : Instr} (h : decodeWord ins = .ok i) (s : State) : runWord ins s = exec i s := by
  simp [runWord, h]

end Sys2Proof.Laws

namespace Sys2Proof.Proofs

open Sys2Proof.Machine Sys2Proof.Laws

/-- Settles O8: the range test of the fetch splits at `0xFFE`, and a STEP is what the fetch answers. -/
theorem fetchIsBigEndianAndFaultsAboveFFE : Obligations.FetchIsBigEndianAndFaultsAboveFFE := by
  unfold Obligations.FetchIsBigEndianAndFaultsAboveFFE
  refine ⟨fun bytes rest i h => ?_, fun s hf => ⟨fun hpc => ?_, fun hpc => ?_⟩⟩
  · obtain ⟨hi, lo, rfl, -⟩ := decode_eq_ok_iff.mp h
    rfl
  · have hfetch := fetch_of_le hpc
    refine ⟨_, hfetch, toNat_wordOfBytes _ _, fun i hi => ?_⟩
    exact (stepCommand_of_fetch hf hfetch).trans (runWord_of_decodeWord hi s)
  · have hfetch := fetch_of_gt hpc
    exact ⟨hfetch, stepCommand_of_no_fetch hf hfetch⟩

end Sys2Proof.Proofs
end

section
/-! SUPPORT. The word of an instruction as a number: the row lemmas of Laws/PerInstr.lean, read with the decoder and the formats
(R61, R62, R64, R65). -/

namespace Sys2Proof.Laws

open Sys2Proof.Claim

/-- An instruction that some row builds back is encoded as the value of its own word. -/
theorem encodedAs_of_rowMatch {i : Instr} {n : Nat} (hr : RowMatch.Statement i) (hn : (encode i).toNat = n) : encodedAs n i := by
  have hw : encode i = BitVec.ofNat 16 n := by rw [← hn, BitVec.ofNat_toNat, BitVec.setWidth_eq]
  exact ⟨hw ▸ decodeWord_eq_ok_iff.mpr hr, hw⟩

theorem encodedAs_formatA (op : Nibble) {nnn : Addr} {i : Instr} (hr : RowMatch.Statement i) (he : encode i = formatA op nnn) :
    encodedAs (4096 * op.toNat + nnn.toNat) i :=
  encodedAs_of_rowMatch hr (he ▸ toNat_formatA op nnn)

theorem encodedAs_formatXB (op : Nibble) {x : Reg} {nn : Byte} {i : Instr} (hr : RowMatch.Statement i)
    (he : encode i = formatXB op x nn) : encodedAs (4096 * op.toNat + 256 * x.toNat + nn.toNat) i :=
  encodedAs_of_rowMatch hr (he ▸ toNat_formatXB op x nn)

theorem encodedAs_formatXY (op low : Nibble) {x y : Reg} {i : Instr} (hr : RowMatch.Statement i)
    (he : encode i = formatXY op x y low) : encodedAs (4096 * op.toNat + 256 * x.toNat + 16 * y.toNat + low.toNat) i :=
  encodedAs_of_rowMatch hr (he ▸ toNat_formatXY op x y low)

end Sys2Proof.Laws
end

section
/-! SUPPORT. What each instruction of control transfer leaves, one equation for each of its outcomes (R80 to R87). -/

namespace Sys2Proof.Laws

open Sys2Proof.Machine Sys2Proof.Claim

/-! ## Return and call (R80, R82) -/

/-- RET on an empty stack takes STACK_UNDERFLOW (R80). -/
theorem exec_ret_of_empty {s : State} (h : s.sp.val = 0) : exec .ret s = .next (s.raise .stackUnderflow 0x00EE) := by
  have hpop : s.pop = none := State.pop_eq_none.mpr (Fin.ext h)
  simp only [exec, execRet, hpop]
  rfl

/-- RET with `SP = k + 1` leaves `SP = k` and resumes two bytes after the address in slot `k`, which keeps its value (R80, R16). -/
theorem exec_ret_of_sp {s : State} {k : Nat} (hk : k < 16) (h : s.sp.val = k + 1) :
    exec .ret s = .next { s with sp := ⟨k, by omega⟩, pc := s.stack[k] + 2 } := by
  simp only [exec, execRet]
  cases hpop : s.pop with
  | none => simp [State.pop_eq_none.mp hpop] at h
  | some p =>
    obtain ⟨j, hj, hsp, hw, ht⟩ := State.pop_eq_some hpop
    obtain rfl : j = k := by simpa [hsp] using h
    simp only [hw, ht]
    rfl

/-- CALL on a full stack takes STACK_OVERFLOW (R82). -/
theorem exec_call_of_full {s : State} (nnn : Addr) (h : s.sp.val = 16) :
    exec (.call nnn) s = .next (s.raise .stackOverflow (encode (.call nnn))) := by
  have hpush : s.push s.pc = none := State.push_eq_none.mpr (Fin.ext h)
  simp only [exec, execCall, hpush]
  rfl

/-- CALL with room on the stack puts its own address into slot `SP`, then `SP + 1`, and goes to `nnn` (R82). -/
theorem exec_call_of_room {s : State} (nnn : Addr) (h : s.sp.val < 16) :
    exec (.call nnn) s = .next { s with
      stack := s.stack.set s.sp.val s.pc h, sp := ⟨s.sp.val + 1, by omega⟩, pc := nnn.setWidth 16 } := by
  simp only [exec, execCall]
  cases hpush : s.push s.pc with
  | none => simp [State.push_eq_none.mp hpush] at h
  | some t =>
    obtain ⟨-, rfl⟩ := State.push_eq_some hpush
    rfl

/-! ## Jumps (R81, R83) -/

theorem exec_jp (nnn : Addr) (s : State) : exec (.jp nnn) s = .next { s with pc := nnn.setWidth 16 } := rfl

theorem exec_jpV0 (nnn : Addr) (s : State) :
    exec (.jpV0 nnn) s = .next { s with pc := nnn.setWidth 16 + (s.readV 0).setWidth 16 } := rfl

/-- The immediate `nnn` as a 16-bit `PC` keeps its value (R61, R81). -/
theorem toNat_addr_setWidth (nnn : Addr) : (nnn.setWidth 16).toNat = nnn.toNat :=
  BitVec.toNat_setWidth_of_le (by decide)

/-- `nnn + V[0]` is at most `0x10FE`, so 16 bits hold it without a reduction (R83). -/
theorem toNat_addr_add_byte (nnn : Addr) (b : Byte) : (nnn.setWidth 16 + b.setWidth 16).toNat = nnn.toNat + b.toNat := by
  have hn := nnn.isLt
  have hb := b.isLt
  rw [BitVec.toNat_add, toNat_addr_setWidth, BitVec.toNat_setWidth_of_le (by decide)]
  omega

/-! ## Skips (R69, R84 to R87) -/

/-- A skip writes `PC` alone: `pc + 4` where the test holds, `pc + 2` where it fails (R69). -/
theorem skipIf_of_iff (s : State) {taken : Bool} {p : Prop} [Decidable p] (h : taken = true ↔ p) :
    s.skipIf taken = { s with pc := if p then s.pc + 4 else s.pc + 2 } := by
  by_cases hp : p
  · simp only [State.skipIf, h.mpr hp, if_pos hp]
    rfl
  · simp only [State.skipIf, Bool.eq_false_iff.mpr (mt h.mp hp), if_neg hp]
    rfl

theorem exec_seImm (x : Reg) (nn : Byte) (s : State) :
    exec (.seImm x nn) s = .next { s with pc := if s.readV x = nn then s.pc + 4 else s.pc + 2 } :=
  congrArg Host.Outcome.next (skipIf_of_iff s beq_iff_eq)

theorem exec_sneImm (x : Reg) (nn : Byte) (s : State) :
    exec (.sneImm x nn) s = .next { s with pc := if s.readV x ≠ nn then s.pc + 4 else s.pc + 2 } :=
  congrArg Host.Outcome.next (skipIf_of_iff s bne_iff_ne)

theorem exec_seReg (x y : Reg) (s : State) :
    exec (.seReg x y) s = .next { s with pc := if s.readV x = s.readV y then s.pc + 4 else s.pc + 2 } :=
  congrArg Host.Outcome.next (skipIf_of_iff s beq_iff_eq)

theorem exec_sneReg (x y : Reg) (s : State) :
    exec (.sneReg x y) s = .next { s with pc := if s.readV x ≠ s.readV y then s.pc + 4 else s.pc + 2 } :=
  congrArg Host.Outcome.next (skipIf_of_iff s bne_iff_ne)

end Sys2Proof.Laws

namespace Sys2Proof.Proofs

open Sys2Proof.Machine Sys2Proof.Claim Sys2Proof.Laws

/-- Settles O16: the stack is empty or it is not, and RET has one equation for each. -/
theorem retPopsAndResumesAfterTheCall : Obligations.RetPopsAndResumesAfterTheCall := by
  unfold Obligations.RetPopsAndResumesAfterTheCall
  refine ⟨encodedAs_of_rowMatch RowMatch.ret rfl, fun s => ⟨fun hempty => exec_ret_of_empty hempty, fun k hk hsp => ?_⟩⟩
  exact ⟨_, exec_ret_of_sp hk hsp, rfl, rfl⟩

/-- Settles O17: the stack is full or has room, and CALL has one equation for each; the slots are those of one `Vector.set`. -/
theorem callPushesItsOwnAddress : Obligations.CallPushesItsOwnAddress := by
  unfold Obligations.CallPushesItsOwnAddress
  refine fun nnn s => ⟨encodedAs_formatA 0x2 (RowMatch.call nnn) rfl, fun hfull => exec_call_of_full nnn hfull, fun hroom => ?_⟩
  refine ⟨_, exec_call_of_room nnn hroom, rfl, rfl, toNat_addr_setWidth nnn, fun k hk => ?_⟩
  simp only [Vector.getElem_set, eq_comm (a := k)]

/-- Settles O19: both jumps write `PC` alone, and neither target needs more than 16 bits. -/
theorem jumpsSetPcAlone : Obligations.JumpsSetPcAlone := by
  unfold Obligations.JumpsSetPcAlone
  exact fun nnn s => ⟨encodedAs_formatA 0x1 (RowMatch.jp nnn) rfl, encodedAs_formatA 0xB (RowMatch.jpV0 nnn) rfl,
    ⟨_, exec_jp nnn s, rfl, toNat_addr_setWidth nnn⟩, ⟨_, exec_jpV0 nnn s, rfl, toNat_addr_add_byte nnn (s.readV 0)⟩⟩

/-- Settles O20: a comparison with a byte is a skip on `==` or on `!=`. -/
theorem byteSkipsCompareAndSkip : Obligations.ByteSkipsCompareAndSkip := by
  unfold Obligations.ByteSkipsCompareAndSkip
  exact fun x nn s => ⟨encodedAs_formatXB 0x3 (RowMatch.seImm x nn) rfl, encodedAs_formatXB 0x4 (RowMatch.sneImm x nn) rfl,
    exec_seImm x nn s, exec_sneImm x nn s⟩

/-- Settles O21: a comparison of two registers is a skip on `==` or on `!=`; the low nibble of both words is 0. -/
theorem registerSkipsCompareAndSkip : Obligations.RegisterSkipsCompareAndSkip := by
  unfold Obligations.RegisterSkipsCompareAndSkip
  exact fun x y s => ⟨encodedAs_formatXY 0x5 0x0 (RowMatch.seReg x y) rfl, encodedAs_formatXY 0x9 0x0 (RowMatch.sneReg x y) rfl,
    exec_seReg x y s, exec_sneReg x y s⟩

end Sys2Proof.Proofs
end

section
/-! SUPPORT. What the loads, the arithmetic, the logic and the shifts leave: an instruction without a flag ends in one register
write, one with a flag writes `VF` and then ends in the same shape (R69, R90 to R100, R102). -/

namespace Sys2Proof.Laws

open Sys2Proof.Machine Sys2Proof.Claim

/-! ## One register written (R69, R102) -/

/-- Ending in `V[x] <- b` from the register file of `u`: `V[x]`, the other registers, and the frame (R69, R102). -/
theorem leaves_of_result {i : Instr} {s u : State} {x : Reg} {b : Byte} (h : exec i s = u.result x b) :
    ∃ t : State, exec i s = .next t ∧ t = { u with v := t.v, pc := u.pc + 2 } ∧
      t.readV x = b ∧ ∀ r : Reg, r ≠ x → t.readV r = u.readV r :=
  ⟨(u.writeV x b).advance, h, rfl, State.readV_writeV_same u x b, fun _ hr => State.readV_writeV_ne u b hr⟩

/-! ## The flag, then the result (R102, R103) -/

/-- The shape of the flag instructions: `VF <- flag`, then `V[x] <- result`, which sees the registers as they are after the flag
write (R103; the spec's decision D9, log 7). -/
def flagThenResult (s : State) (x : Reg) (flag : Byte) (result : (Reg → Byte) → Byte) : Result :=
  (s.writeV VF flag).result x (result (s.writeV VF flag).readV)

/-- Ending in a flag and a result: `after` holds the registers between the two writes, and the frame is that of one write. -/
theorem leaves_of_flagThenResult {i : Instr} {s : State} {x : Reg} {flag : Byte} {result : (Reg → Byte) → Byte}
    (h : exec i s = flagThenResult s x flag result) :
    ∃ t : State, exec i s = .next t ∧ t = { s with v := t.v, pc := s.pc + 2 } ∧
      ∃ after : Reg → Byte, after VF = flag ∧ (∀ r : Reg, r ≠ VF → after r = s.readV r) ∧
        t.readV x = result after ∧ ∀ r : Reg, r ≠ x → t.readV r = after r := by
  obtain ⟨t, ht, hframe, hx, hother⟩ := leaves_of_result h
  exact ⟨t, ht, hframe, (s.writeV VF flag).readV, State.readV_writeV_same s VF flag,
    fun _ hr => State.readV_writeV_ne s flag hr, hx, hother⟩

/-! ## What each instruction writes (R90 to R100) -/

theorem exec_ldImm (x : Reg) (nn : Byte) (s : State) : exec (.ldImm x nn) s = s.result x nn := rfl

theorem exec_addImm (x : Reg) (nn : Byte) (s : State) : exec (.addImm x nn) s = s.result x (s.readV x + nn) := rfl

theorem exec_ldReg (x y : Reg) (s : State) : exec (.ldReg x y) s = s.result x (s.readV y) := rfl

theorem exec_orReg (x y : Reg) (s : State) : exec (.orReg x y) s = s.result x (s.readV x ||| s.readV y) := rfl

theorem exec_andReg (x y : Reg) (s : State) : exec (.andReg x y) s = s.result x (s.readV x &&& s.readV y) := rfl

theorem exec_xorReg (x y : Reg) (s : State) : exec (.xorReg x y) s = s.result x (s.readV x ^^^ s.readV y) := rfl

/-- The sum is of the old operands, taken before the carry is written (R96). -/
theorem exec_addReg (x y : Reg) (s : State) :
    exec (.addReg x y) s = flagThenResult s x (carryFlag (s.readV x) (s.readV y)) fun _ => s.readV x + s.readV y := rfl

theorem exec_sub (x y : Reg) (s : State) :
    exec (.sub x y) s = flagThenResult s x (greaterFlag (s.readV x) (s.readV y)) fun after => after x - after y := rfl

theorem exec_subn (x y : Reg) (s : State) :
    exec (.subn x y) s = flagThenResult s x (greaterFlag (s.readV y) (s.readV x)) fun after => after y - after x := rfl

theorem exec_shr (x y : Reg) (s : State) :
    exec (.shr x y) s = flagThenResult s x (lowBitFlag (s.readV x)) fun after => after x >>> 1 := rfl

theorem exec_shl (x y : Reg) (s : State) :
    exec (.shl x y) s = flagThenResult s x (highBitFlag (s.readV x)) fun after => after x <<< 1 := rfl

/-! ## The flags and the results as numbers (R4, R96 to R100) -/

theorem carryFlag_eq (a b : Byte) : carryFlag a b = if 255 < a.toNat + b.toNat then 1 else 0 := by
  simp [carryFlag, flagByte]

theorem greaterFlag_eq (a b : Byte) : greaterFlag a b = if b.toNat < a.toNat then 1 else 0 := by
  simp [greaterFlag, flagByte]

theorem toNat_lowBitFlag (a : Byte) : (lowBitFlag a).toNat = a.toNat % 2 := by
  rw [lowBitFlag, BitVec.toNat_and]
  exact Nat.and_one_is_mod _

/-- Bit 7 is bit 0 of the byte shifted right by 7, which is at most 1 (R100). -/
theorem toNat_highBitFlag (a : Byte) : (highBitFlag a).toNat = a.toNat / 128 := by
  have ha := a.isLt
  have hlow : (highBitFlag a).toNat = (a >>> 7).toNat % 2 := toNat_lowBitFlag (a >>> 7)
  rw [hlow, BitVec.toNat_ushiftRight, Nat.shiftRight_eq_div_pow]
  omega

theorem toNat_shiftRight_one (a : Byte) : (a >>> 1).toNat = a.toNat / 2 := by
  rw [BitVec.toNat_ushiftRight, Nat.shiftRight_eq_div_pow, Nat.pow_one]

theorem toNat_shiftLeft_one (a : Byte) : (a <<< 1).toNat = 2 * a.toNat % 256 := by
  rw [BitVec.toNat_shiftLeft, Nat.shiftLeft_eq, Nat.pow_one, Nat.mul_comm]

/-- The difference of two bytes is the integer difference modulo 256, never negative (R97, R99). -/
theorem toNat_sub_eq_emod (a b : Byte) : ((a - b).toNat : Int) = ((a.toNat : Int) - (b.toNat : Int)) % 256 := by
  have hb := b.isLt
  rw [BitVec.toNat_sub]
  omega

/-! ## The words of family 8 (R62, R65) -/

/-- The word `8xy<low>`, its low nibble added to the pattern's own value. -/
theorem encodedAs_family8 (low : Nibble) {x y : Reg} {i : Instr} (hr : RowMatch.Statement i) (he : encode i = formatXY 0x8 x y low) :
    encodedAs (0x8000 + low.toNat + 256 * x.toNat + 16 * y.toNat) i := by
  have h := encodedAs_formatXY 0x8 low hr he
  rwa [Nat.add_right_comm _ _ low.toNat, Nat.add_right_comm _ _ low.toNat] at h

end Sys2Proof.Laws

namespace Sys2Proof.Proofs

open Sys2Proof.Machine Sys2Proof.Laws

/-- Settles O22: both are one register write; the byte sum of ADD is the sum modulo 256. -/
theorem immediateLoadAndAdd : Obligations.ImmediateLoadAndAdd := by
  unfold Obligations.ImmediateLoadAndAdd
  refine fun x nn s => ⟨encodedAs_formatXB 0x6 (RowMatch.ldImm x nn) rfl, encodedAs_formatXB 0x7 (RowMatch.addImm x nn) rfl,
    leaves_of_result (exec_ldImm x nn s), ?_⟩
  obtain ⟨t, ht, hframe, hx, hother⟩ := leaves_of_result (exec_addImm x nn s)
  exact ⟨t, ht, hframe, hx ▸ BitVec.toNat_add _ _, hother⟩

/-- Settles O23: each is one register write, of the copy or of the bitwise operation. -/
theorem copyAndLogicWriteTheDestinationAlone : Obligations.CopyAndLogicWriteTheDestinationAlone := by
  unfold Obligations.CopyAndLogicWriteTheDestinationAlone
  exact fun x y s => ⟨encodedAs_family8 0x0 (RowMatch.ldReg x y) rfl, encodedAs_family8 0x1 (RowMatch.orReg x y) rfl,
    encodedAs_family8 0x2 (RowMatch.andReg x y) rfl, encodedAs_family8 0x3 (RowMatch.xorReg x y) rfl,
    leaves_of_result (exec_ldReg x y s), leaves_of_result (exec_orReg x y s), leaves_of_result (exec_andReg x y s),
    leaves_of_result (exec_xorReg x y s)⟩

/-- Settles O24: the sum is of the old operands and is written last, so the carry stays in `VF` unless `x` is 15. -/
theorem addLeavesSumAndCarry : Obligations.AddLeavesSumAndCarry := by
  unfold Obligations.AddLeavesSumAndCarry
  refine fun x y s => ⟨encodedAs_family8 0x4 (RowMatch.addReg x y) rfl, ?_⟩
  obtain ⟨t, ht, hframe, after, hflag, hkept, hx, hother⟩ := leaves_of_flagThenResult (exec_addReg x y s)
  refine ⟨t, ht, hframe, hx ▸ BitVec.toNat_add _ _, fun hne => ?_, fun r hrx hrVF => (hother r hrx).trans (hkept r hrVF)⟩
  rw [hother VF hne.symm, hflag, carryFlag_eq]

/-- Settles O25: `after` is the register file once the flag is written, and the difference is taken from it. -/
theorem subtractionsFlagStrictlyGreater : Obligations.SubtractionsFlagStrictlyGreater := by
  unfold Obligations.SubtractionsFlagStrictlyGreater
  refine fun x y s => ⟨encodedAs_family8 0x5 (RowMatch.sub x y) rfl, encodedAs_family8 0x7 (RowMatch.subn x y) rfl, ?_, ?_⟩
  · obtain ⟨t, ht, hframe, after, hflag, hkept, hx, hother⟩ := leaves_of_flagThenResult (exec_sub x y s)
    exact ⟨t, ht, hframe, after, hflag.trans (greaterFlag_eq _ _), hkept, hx ▸ toNat_sub_eq_emod _ _, hother⟩
  · obtain ⟨t, ht, hframe, after, hflag, hkept, hx, hother⟩ := leaves_of_flagThenResult (exec_subn x y s)
    exact ⟨t, ht, hframe, after, hflag.trans (greaterFlag_eq _ _), hkept, hx ▸ toNat_sub_eq_emod _ _, hother⟩

/-- Settles O26: `after` is the register file once the flag is written, and the shift is of its `V[x]`. -/
theorem shiftsMoveByOneAndFlagTheBitShiftedOut : Obligations.ShiftsMoveByOneAndFlagTheBitShiftedOut := by
  unfold Obligations.ShiftsMoveByOneAndFlagTheBitShiftedOut
  refine fun x y s => ⟨encodedAs_family8 0x6 (RowMatch.shr x y) rfl, encodedAs_family8 0xE (RowMatch.shl x y) rfl, ?_, ?_⟩
  · obtain ⟨t, ht, hframe, after, hflag, hkept, hx, hother⟩ := leaves_of_flagThenResult (exec_shr x y s)
    exact ⟨t, ht, hframe, after, hflag ▸ toNat_lowBitFlag _, hkept, hx ▸ toNat_shiftRight_one _, hother⟩
  · obtain ⟨t, ht, hframe, after, hflag, hkept, hx, hother⟩ := leaves_of_flagThenResult (exec_shl x y s)
    exact ⟨t, ht, hframe, after, hflag ▸ toNat_highBitFlag _, hkept, hx ▸ toNat_shiftLeft_one _, hother⟩

end Sys2Proof.Proofs
end

section
/-! SUPPORT. What the address register, the stores and the loads leave: an access of memory answers one of two ways, decided by the
last address it touches, and each instruction has one equation for each (R110 to R115). -/

namespace Sys2Proof.Laws

open Sys2Proof.Machine Sys2Proof.Claim

/-! ## The words of format X (R62, R65) -/

/-- The word `Fx<low>`, its fixed low byte added to the pattern's own value. -/
theorem encodedAs_familyF (low : Byte) {x : Reg} {i : Instr} (hr : RowMatch.Statement i) (he : encode i = formatXB 0xF x low) :
    encodedAs (0xF000 + low.toNat + 256 * x.toNat) i := by
  have h := encodedAs_formatXB 0xF hr he
  rwa [Nat.add_right_comm] at h

/-! ## The address register (R110, R111, R112) -/

theorem exec_ldI (nnn : Addr) (s : State) : exec (.ldI nnn) s = .next { s with i := nnn.setWidth 16, pc := s.pc + 2 } := rfl

theorem exec_addI (x : Reg) (s : State) :
    exec (.addI x) s = .next { s with i := s.i + (s.readV x).setWidth 16, pc := s.pc + 2 } := rfl

theorem exec_ldF (x : Reg) (s : State) :
    exec (.ldF x) s = .next { s with i := glyphAddress Config.fx29Base (s.readV x), pc := s.pc + 2 } := rfl

/-- `I + V[x]` is reduced modulo 65536 and by nothing else (R111). -/
theorem toNat_word_add_byte (w : Word) (b : Byte) : (w + b.setWidth 16).toNat = (w.toNat + b.toNat) % 65536 := by
  rw [BitVec.toNat_add, BitVec.toNat_setWidth_of_le (by decide)]

/-- From a base that leaves room for `5 * 255`, the glyph address needs no reduction (R112). -/
theorem toNat_glyphAddress {base : Word} (hbase : base.toNat + 5 * 255 < 65536) (b : Byte) :
    (glyphAddress base b).toNat = base.toNat + 5 * b.toNat := by
  have hb := b.isLt
  rw [glyphAddress, BitVec.toNat_ofNat]
  omega

/-! ## The two answers of an access (R41, R42) -/

theorem load_of_le {s : State} {a n : Nat} (h : a + n ≤ 0xFFF) : s.load a (n + 1) = some (s.mem.readBytes a (n + 1)) := by
  rcases s.load_cases a (n + 1) with ⟨-, -, hgt⟩ | ⟨hload, -⟩
  · omega
  · exact hload

theorem load_of_gt {s : State} {a n : Nat} (h : 0xFFF < a + n) : s.load a (n + 1) = none := by
  rcases s.load_cases a (n + 1) with ⟨hload, -⟩ | ⟨-, hle⟩
  · exact hload
  · omega

theorem store_of_le {s : State} {a n : Nat} {bs : List Byte} (hn : bs.length = n + 1) (h : a + n ≤ 0xFFF) :
    s.store a bs = some (s.poke a bs) := by
  rcases s.store_cases a bs with ⟨-, -, hgt⟩ | ⟨hstore, -⟩
  · omega
  · exact hstore

theorem store_of_gt {s : State} {a n : Nat} {bs : List Byte} (hn : bs.length = n + 1) (h : 0xFFF < a + n) :
    s.store a bs = none := by
  rcases s.store_cases a bs with ⟨hstore, -⟩ | ⟨-, hle⟩
  · exact hstore
  · omega

/-! ## What a store leaves in memory, and a load in the registers (R46, R114, R115) -/

theorem read_writeBytes_add (m : Memory) (a : Nat) {bs : List Byte} {k : Nat} (h : k < bs.length) :
    (m.writeBytes a bs).read (a + k) = bs[k] := by
  simp [Memory.read_writeBytes, h]

theorem read_writeBytes_outside (m : Memory) {a k n : Nat} {bs : List Byte} (hn : bs.length = n + 1) (h : k < a ∨ a + n < k) :
    (m.writeBytes a bs).read k = m.read k := by
  rw [Memory.read_writeBytes, dif_neg (by omega)]

theorem getElem_regsUpTo_toNat {s : State} {x r : Reg} (h : r.toNat < (s.regsUpTo x).length) :
    (s.regsUpTo x)[r.toNat] = s.readV r := by
  rw [State.getElem_regsUpTo, BitVec.ofNat_toNat, BitVec.setWidth_eq]

theorem readV_writeVs_readBytes_of_le {s : State} {m : Memory} {a n : Nat} {r : Reg} (h : r.toNat ≤ n) :
    (s.writeVs 0 (m.readBytes a (n + 1))).readV r = m.read (a + r.toNat) := by
  have hlen := m.length_readBytes (n + 1) a
  rw [State.readV_writeVs, dif_pos (by omega), Memory.getElem_readBytes]
  rfl

theorem readV_writeVs_readBytes_of_gt {s : State} {m : Memory} {a n : Nat} {r : Reg} (h : n < r.toNat) :
    (s.writeVs 0 (m.readBytes a (n + 1))).readV r = s.readV r := by
  have hlen := m.length_readBytes (n + 1) a
  rw [State.readV_writeVs, dif_neg (by omega)]

/-! ## Fx33, Fx55, Fx65 inside `MEM` and above it (R113, R114, R115) -/

theorem exec_ldB_of_le {x : Reg} {s : State} (h : s.i.toNat + 2 ≤ 0xFFF) :
    exec (.ldB x) s = .next { s with mem := s.mem.writeBytes s.i.toNat (bcdDigits (s.readV x)), pc := s.pc + 2 } := by
  have hstore : s.store (s.ea 0) (bcdDigits (s.readV x)) = _ := store_of_le rfl h
  simp only [exec, execLdB, hstore]
  rfl

theorem exec_ldB_of_gt {x : Reg} {s : State} (h : 0xFFF < s.i.toNat + 2) :
    exec (.ldB x) s = .next (s.raise .memOutOfRange (encode (.ldB x))) := by
  have hstore : s.store (s.ea 0) (bcdDigits (s.readV x)) = none := store_of_gt rfl h
  simp only [exec, execLdB, hstore]
  rfl

theorem exec_stRegs_of_le {x : Reg} {s : State} (h : s.i.toNat + x.toNat ≤ 0xFFF) :
    exec (.stRegs x) s = .next { s with
      mem := s.mem.writeBytes s.i.toNat (s.regsUpTo x), i := BitVec.ofNat 16 (s.ea (x.toNat + 1)), pc := s.pc + 2 } := by
  have hstore : s.store (s.ea 0) (s.regsUpTo x) = _ := store_of_le (s.length_regsUpTo x) h
  simp only [exec, execStRegs, hstore]
  rfl

theorem exec_stRegs_of_gt {x : Reg} {s : State} (h : 0xFFF < s.i.toNat + x.toNat) :
    exec (.stRegs x) s = .next (s.raise .memOutOfRange (encode (.stRegs x))) := by
  have hstore : s.store (s.ea 0) (s.regsUpTo x) = none := store_of_gt (s.length_regsUpTo x) h
  simp only [exec, execStRegs, hstore]
  rfl

theorem exec_ldRegs_of_le {x : Reg} {s : State} (h : s.i.toNat + x.toNat ≤ 0xFFF) :
    exec (.ldRegs x) s = .next { s with
      v := (s.writeVs 0 (s.mem.readBytes s.i.toNat (x.toNat + 1))).v, i := BitVec.ofNat 16 (s.ea (x.toNat + 1)), pc := s.pc + 2 } := by
  have hload : s.load (s.ea 0) (x.toNat + 1) = some (s.mem.readBytes s.i.toNat (x.toNat + 1)) := load_of_le h
  obtain ⟨v', hv⟩ := s.writeVs_frame (s.mem.readBytes s.i.toNat (x.toNat + 1)) 0
  simp only [exec, execLdRegs, hload, hv]
  rfl

theorem exec_ldRegs_of_gt {x : Reg} {s : State} (h : 0xFFF < s.i.toNat + x.toNat) :
    exec (.ldRegs x) s = .next (s.raise .memOutOfRange (encode (.ldRegs x))) := by
  have hload : s.load (s.ea 0) (x.toNat + 1) = none := load_of_gt h
  simp only [exec, execLdRegs, hload]
  rfl

/-- After an access inside `MEM` the advanced `I` is at most `0x1000`, so 16 bits hold it (R114, R115). -/
theorem toNat_ofNat_ea_succ {s : State} {n : Nat} (h : s.i.toNat + n ≤ 0xFFF) :
    (BitVec.ofNat 16 (s.ea (n + 1))).toNat = s.i.toNat + n + 1 := by
  rw [BitVec.toNat_ofNat, State.ea]
  omega

/-- The three bytes `Fx33` stores, each small enough for a byte, the hundreds included (R113). -/
theorem toNat_read_writeBytes_bcdDigits (m : Memory) (a : Nat) (b : Byte) :
    ((m.writeBytes a (bcdDigits b)).read a).toNat = b.toNat / 100 ∧
    ((m.writeBytes a (bcdDigits b)).read (a + 1)).toNat = b.toNat / 10 % 10 ∧
    ((m.writeBytes a (bcdDigits b)).read (a + 2)).toNat = b.toNat % 10 := by
  have hb := b.isLt
  have hread : ∀ k (hk : k < 3), (m.writeBytes a (bcdDigits b)).read (a + k) = (bcdDigits b)[k] :=
    fun _ hk => read_writeBytes_add m a hk
  exact ⟨(congrArg BitVec.toNat (hread 0 (by decide))).trans (Nat.mod_eq_of_lt (by omega)),
    (congrArg BitVec.toNat (hread 1 (by decide))).trans (Nat.mod_eq_of_lt (by omega)),
    (congrArg BitVec.toNat (hread 2 (by decide))).trans (Nat.mod_eq_of_lt (by omega))⟩

end Sys2Proof.Laws

namespace Sys2Proof.Proofs

open Sys2Proof.Machine Sys2Proof.Laws

/-- Settles O31: the last of the three addresses decides between the fault and the store; the bytes stored are the digits in turn. -/
theorem decimalDigitsAreStored : Obligations.DecimalDigitsAreStored := by
  unfold Obligations.DecimalDigitsAreStored
  refine fun x s => ⟨encodedAs_familyF 0x33 (RowMatch.ldB x) rfl, fun hgt => exec_ldB_of_gt hgt, fun hle => ?_⟩
  obtain ⟨hhundreds, htens, hones⟩ := toNat_read_writeBytes_bcdDigits s.mem s.i.toNat (s.readV x)
  exact ⟨_, exec_ldB_of_le hle, rfl, hhundreds, htens, hones, fun a ha => read_writeBytes_outside s.mem rfl ha⟩

/-- Settles O32: the address of the last register decides between the fault and the store; byte `r` of the store is `V[r]`. -/
theorem registersAreStoredFromI : Obligations.RegistersAreStoredFromI := by
  unfold Obligations.RegistersAreStoredFromI
  refine fun x s => ⟨encodedAs_familyF 0x55 (RowMatch.stRegs x) rfl, fun hgt => exec_stRegs_of_gt hgt, fun hle => ?_⟩
  have hlen := s.length_regsUpTo x
  refine ⟨_, exec_stRegs_of_le hle, rfl, toNat_ofNat_ea_succ hle, fun r hr => ?_, fun a ha => read_writeBytes_outside s.mem hlen ha⟩
  have hlt : r.toNat < (s.regsUpTo x).length := by omega
  exact (read_writeBytes_add s.mem s.i.toNat hlt).trans (getElem_regsUpTo_toNat hlt)

/-- Settles O33: the address of the last byte decides between the fault and the load; register `r` takes byte `r` of it. -/
theorem registersAreLoadedFromI : Obligations.RegistersAreLoadedFromI := by
  unfold Obligations.RegistersAreLoadedFromI
  refine fun x s => ⟨encodedAs_familyF 0x65 (RowMatch.ldRegs x) rfl, fun hgt => exec_ldRegs_of_gt hgt, fun hle => ?_⟩
  exact ⟨_, exec_ldRegs_of_le hle, rfl, toNat_ofNat_ea_succ hle, fun _ hr => readV_writeVs_readBytes_of_le hr,
    fun _ hr => readV_writeVs_readBytes_of_gt hr⟩

/-- Settles O29: both write `I` and `PC` alone; `nnn` fits into `I`, and the sum with `V[x]` is the 16-bit one. -/
theorem addressRegisterLoadAndAdd : Obligations.AddressRegisterLoadAndAdd := by
  unfold Obligations.AddressRegisterLoadAndAdd
  exact fun nnn x s => ⟨encodedAs_formatA 0xA (RowMatch.ldI nnn) rfl, encodedAs_familyF 0x1E (RowMatch.addI x) rfl,
    ⟨_, exec_ldI nnn s, rfl, toNat_addr_setWidth nnn⟩, ⟨_, exec_addI x s, rfl, toNat_word_add_byte s.i (s.readV x)⟩⟩

/-- Settles O30: every value of the parameter here leaves room for `5 * 255` below 65536, so the multiple is not reduced. -/
theorem glyphAddressIsFiveTimesTheRegister : Obligations.GlyphAddressIsFiveTimesTheRegister := by
  unfold Obligations.GlyphAddressIsFiveTimesTheRegister
  refine fun x s => ⟨encodedAs_familyF 0x29 (RowMatch.ldF x) rfl,
    ⟨_, exec_ldF x s, rfl, toNat_glyphAddress (by decide) (s.readV x)⟩, fun b => ⟨?_, toNat_glyphAddress (by decide) b⟩⟩
  exact (toNat_glyphAddress (base := 0x0000) (by decide) b).trans (Nat.zero_add _)

end Sys2Proof.Proofs
end

section
/-! SUPPORT. What CLS and DRW leave: the cells under the set sprite bits, the pixels those cells address, the display and `VF` after
they are flipped, and one equation for each outcome of DRW (R120, R121, R122, R165). -/

namespace Sys2Proof.Laws

open Sys2Proof.Machine Sys2Proof.Claim

/-! ## Clearing the display (R120) -/

theorem exec_cls (s : State) : exec .cls s = .next { s with disp := 0, pc := s.pc + 2 } := rfl

/-! ## The cells under the set bits of a sprite (R121, R122) -/

/-- The cells DRW visits, in the order it visits them: one for each set bit of the `n` bytes at `I` (R121). -/
def cellsUnderSprite (x y : Reg) (n : Nibble) (s : State) : List (Nat × Nat) :=
  spriteCells (s.readV x).toNat (s.readV y).toNat (s.mem.readBytes s.i.toNat n.toNat)

theorem mem_cellsUnderSprite {x y : Reg} {n : Nibble} {s : State} {p : Nat × Nat} :
    p ∈ cellsUnderSprite x y n s ↔ ∃ r c : Nat, r < n.toNat ∧ c < 8 ∧ (s.mem.read (s.i.toNat + r)).getLsbD (7 - c) = true ∧
      p = ((s.readV x).toNat + c, (s.readV y).toNat + r) := by
  simp only [cellsUnderSprite, mem_spriteCells, spriteBit_eq, Memory.getElem_readBytes, Memory.length_readBytes]
  exact ⟨fun ⟨r, hr, c, h⟩ => ⟨r, c, hr, h⟩, fun ⟨r, c, hr, h⟩ => ⟨r, hr, c, h⟩⟩

theorem spriteCoversWrapped_iff {x y : Reg} {n : Nibble} {s : State} {col row : Nat} :
    spriteCoversWrapped x y n s col row ↔ ∃ p ∈ cellsUnderSprite x y n s, p.1 % 64 = col ∧ p.2 % 32 = row := by
  simp only [mem_cellsUnderSprite]
  constructor
  · rintro ⟨r, c, hr, hc, hbit, hcol, hrow⟩
    exact ⟨_, ⟨r, c, hr, hc, hbit, rfl⟩, hcol, hrow⟩
  · rintro ⟨_, ⟨r, c, hr, hc, hbit, rfl⟩, hcol, hrow⟩
    exact ⟨r, c, hr, hc, hbit, hcol, hrow⟩

theorem spriteLeavesGrid_iff {x y : Reg} {n : Nibble} {s : State} :
    spriteLeavesGrid x y n s ↔ ∃ p ∈ cellsUnderSprite x y n s, ¬ (p.1 ≤ 63 ∧ p.2 ≤ 31) := by
  simp only [mem_cellsUnderSprite]
  constructor
  · rintro ⟨r, c, hr, hc, hbit, hoff⟩
    exact ⟨_, ⟨r, c, hr, hc, hbit, rfl⟩, by omega⟩
  · rintro ⟨_, ⟨r, c, hr, hc, hbit, rfl⟩, hoff⟩
    exact ⟨r, c, hr, hc, hbit, by omega⟩

/-- A sprite inside the grid covers the same pixels whether or not its coordinates are wrapped (R121, R122). -/
theorem spriteCovers_eq_wrapped {x y : Reg} {n : Nibble} {s : State} (h : ¬ spriteLeavesGrid x y n s) :
    spriteCovers x y n s = spriteCoversWrapped x y n s := by
  funext col row
  refine propext (exists_congr fun r => exists_congr fun c =>
    and_congr_right fun hr => and_congr_right fun hc => and_congr_right fun hbit => ?_)
  have hon : ¬ (63 < (s.readV x).toNat + c ∨ 31 < (s.readV y).toNat + r) := fun hoff => h ⟨r, c, hr, hc, hbit, hoff⟩
  rw [Nat.mod_eq_of_lt (show (s.readV x).toNat + c < 64 by omega), Nat.mod_eq_of_lt (show (s.readV y).toNat + r < 32 by omega)]

/-! ## The pixels the cells address (R53, R121, R122) -/

theorem offDisplay_reject_iff {cells : List (Nat × Nat)} :
    offDisplay .reject cells = true ↔ ∃ p ∈ cells, ¬ (p.1 ≤ 63 ∧ p.2 ≤ 31) := by
  simp only [offDisplay, onGrid, List.any_eq_true, Bool.not_eq_true', decide_eq_false_iff_not]

/-- Where every cell is on the grid, `reject` and `wrap` address the same pixels. -/
theorem map_pixelIndex_reject {cells : List (Nat × Nat)} (h : offDisplay .reject cells = false) :
    cells.map (pixelIndex .reject) = cells.map (pixelIndex .wrap) := by
  refine List.map_congr_left fun p hp => ?_
  have hon : p.1 ≤ 63 ∧ p.2 ≤ 31 := by
    by_contra hoff
    simp [offDisplay_reject_iff.mpr ⟨p, hp, hoff⟩] at h
  simp only [pixelIndex]
  omega

theorem pixelIndex_wrap_lt (p : Nat × Nat) : pixelIndex .wrap p < 2048 := by
  simp only [pixelIndex]
  omega

/-- A wrapped pixel index determines the wrapped column and row (R53). -/
theorem pixelIndex_wrap_eq_iff {p : Nat × Nat} {col row : Nat} (hcol : col < 64) :
    pixelIndex .wrap p = col + 64 * row ↔ p.1 % 64 = col ∧ p.2 % 32 = row := by
  simp only [pixelIndex]
  omega

/-- A sprite is 8 columns wide and at most 32 rows high, so wrapping keeps its cells on distinct pixels (R122). -/
theorem nodup_map_pixelIndex_wrap (x0 y0 : Nat) {rows : List Byte} (h : rows.length ≤ 32) :
    ((spriteCells x0 y0 rows).map (pixelIndex .wrap)).Nodup := by
  refine List.Nodup.map_on (fun p hp q hq hpq => ?_) (nodup_spriteCells x0 rows y0)
  obtain ⟨r, hr, c, hc, -, rfl⟩ := mem_spriteCells.mp hp
  obtain ⟨r', hr', c', hc', -, rfl⟩ := mem_spriteCells.mp hq
  simp only [pixelIndex] at hpq
  rw [Prod.mk.injEq]
  omega

/-- The pixels DRW flips under `wrap` are those the wrapped set bits fall on (R122). -/
theorem mem_map_pixelIndex_wrap_iff {x y : Reg} {n : Nibble} {s : State} {col row : Nat} (hcol : col < 64) :
    col + 64 * row ∈ (cellsUnderSprite x y n s).map (pixelIndex .wrap) ↔ spriteCoversWrapped x y n s col row := by
  simp only [List.mem_map, pixelIndex_wrap_eq_iff hcol, spriteCoversWrapped_iff]

/-! ## Flipping a list of distinct pixels (R53, R121) -/

/-- The given pixels flipped, the collision reported in `VF`, then `pc + 2` (R121). -/
def flipAndFlag (s : State) (ks : List Nat) : State :=
  ((s.setDisp (xorPixels s.disp false ks).1).writeV VF (collisionFlag (xorPixels s.disp false ks).2)).advance

theorem flipAndFlag_pix {s : State} {ks : List Nat} (hn : ks.Nodup) {col row : Nat} (hcol : col < 64) (hrow : row < 32) :
    (flipAndFlag s ks).pix col row = (s.pix col row ^^ decide (col + 64 * row ∈ ks)) :=
  getLsbD_xorPixels ks s.disp false hn _ (by omega)

theorem flipAndFlag_readV_ne (s : State) (ks : List Nat) {r : Reg} (hr : r ≠ VF) : (flipAndFlag s ks).readV r = s.readV r :=
  State.readV_writeV_ne (s.setDisp _) _ hr

/-- `VF` is 1 where one of the pixels was 1, and 0 where none was (R121). -/
theorem flipAndFlag_readV_VF (s : State) {ks : List Nat} (hn : ks.Nodup) (hb : ∀ k ∈ ks, k < 2048) :
    (flipAndFlag s ks).readV VF = flagByte (ks.any fun k => s.disp.getLsbD k) := by
  have hhit := hit_xorPixels ks s.disp false hn hb
  rw [Bool.false_or] at hhit
  exact (State.readV_writeV_same (s.setDisp _) VF _).trans (congrArg flagByte hhit)

/-- One of the pixels is 1 exactly when some covered pixel is. -/
theorem any_getLsbD_iff_covered {covers : Nat → Nat → Prop} (s : State) {ks : List Nat} (hb : ∀ k ∈ ks, k < 2048)
    (hcov : ∀ col row : Nat, col < 64 → row < 32 → (col + 64 * row ∈ ks ↔ covers col row)) :
    (ks.any fun k => s.disp.getLsbD k) = true ↔
      ∃ col row : Nat, col < 64 ∧ row < 32 ∧ covers col row ∧ s.pix col row = true := by
  rw [List.any_eq_true]
  constructor
  · rintro ⟨k, hk, hset⟩
    have hlt := hb k hk
    have hsplit : k % 64 + 64 * (k / 64) = k := Nat.mod_add_div k 64
    refine ⟨k % 64, k / 64, by omega, by omega, (hcov _ _ (by omega) (by omega)).mp ?_, ?_⟩
    · rwa [hsplit]
    · rwa [State.pix, hsplit]
  · rintro ⟨col, row, hcol, hrow, hc, hset⟩
    exact ⟨_, (hcov col row hcol hrow).mpr hc, hset⟩

/-- Distinct pixels, those `covers` tells of, flipped and reported: what a DRW that is not rejected leaves (R121, R122). -/
theorem drawn_flipAndFlag {covers : Nat → Nat → Prop} (s : State) {ks : List Nat} (hn : ks.Nodup) (hb : ∀ k ∈ ks, k < 2048)
    (hcov : ∀ col row : Nat, col < 64 → row < 32 → (col + 64 * row ∈ ks ↔ covers col row)) :
    drawn covers s (flipAndFlag s ks) := by
  have hany := any_getLsbD_iff_covered s hb hcov
  refine ⟨rfl, fun col row hcol hrow => ⟨fun hc => ?_, fun hc => ?_⟩, fun _ hr => flipAndFlag_readV_ne s ks hr,
    fun hset => ?_, fun hclear => ?_⟩
  · simp [flipAndFlag_pix hn hcol hrow, (hcov col row hcol hrow).mpr hc]
  · simp [flipAndFlag_pix hn hcol hrow, mt (hcov col row hcol hrow).mp hc]
  · rw [flipAndFlag_readV_VF s hn hb, hany.mpr hset]
    rfl
  · rw [flipAndFlag_readV_VF s hn hb, Bool.eq_false_iff.mpr (mt hany.mp hclear)]
    rfl

/-! ## The outcomes of DRW: memory before display (R121, R122, R165) -/

theorem exec_drw (x y : Reg) (n : Nibble) (s : State) : exec (.drw x y n) s = drwWith .reject x y n s := rfl

/-- A sprite byte above `0xFFF` is MEM_OUT_OF_RANGE, whatever `SPRITE_OOB` (R121, R122). -/
theorem drwWith_of_outsideMem (oob : Config.SpriteOob) (x y : Reg) {n : Nibble} {s : State} (h : spriteOutsideMem n s) :
    drwWith oob x y n s = .next (s.raise .memOutOfRange (encode (.drw x y n))) := by
  obtain ⟨hpos, hgt⟩ := h
  have hload : s.load (s.ea 0) n.toNat = none := by
    rcases s.load_cases (s.ea 0) n.toNat with ⟨hload, -⟩ | ⟨-, hle⟩
    · exact hload
    · rw [State.ea] at hle
      omega
  simp only [drwWith, hload]
  rfl

/-- With its bytes inside `MEM` the sprite is rejected or drawn by the display test alone (R121, R122). -/
theorem drwWith_of_inMem (oob : Config.SpriteOob) (x y : Reg) {n : Nibble} {s : State} (h : ¬ spriteOutsideMem n s) :
    drwWith oob x y n s =
      if offDisplay oob (cellsUnderSprite x y n s) then .next (s.raise .displayOutOfRange (encode (.drw x y n)))
      else .next (flipAndFlag s ((cellsUnderSprite x y n s).map (pixelIndex oob))) := by
  have hload : s.load (s.ea 0) n.toNat = some (s.mem.readBytes s.i.toNat n.toNat) := by
    rcases s.load_cases (s.ea 0) n.toNat with ⟨-, hpos, hgt⟩ | ⟨hload, -⟩
    · rw [State.ea] at hgt
      exact absurd ⟨hpos, by omega⟩ h
    · exact hload
  have hdraw : drawSprite oob (s.readV x).toNat (s.readV y).toNat (s.mem.readBytes s.i.toNat n.toNat) s.disp =
      if offDisplay oob (cellsUnderSprite x y n s) then none
      else some (xorPixels s.disp false ((cellsUnderSprite x y n s).map (pixelIndex oob))) := rfl
  simp only [drwWith, hload, hdraw]
  cases offDisplay oob (cellsUnderSprite x y n s) <;> rfl

theorem drwWith_wrap_of_inMem (x y : Reg) {n : Nibble} {s : State} (h : ¬ spriteOutsideMem n s) :
    drwWith .wrap x y n s = .next (flipAndFlag s ((cellsUnderSprite x y n s).map (pixelIndex .wrap))) :=
  drwWith_of_inMem .wrap x y h

theorem drwWith_reject_of_leavesGrid {x y : Reg} {n : Nibble} {s : State} (h : ¬ spriteOutsideMem n s)
    (hleaves : spriteLeavesGrid x y n s) :
    drwWith .reject x y n s = .next (s.raise .displayOutOfRange (encode (.drw x y n))) := by
  rw [drwWith_of_inMem .reject x y h, if_pos (offDisplay_reject_iff.mpr (spriteLeavesGrid_iff.mp hleaves))]

/-- A sprite inside the grid is drawn alike under both values of `SPRITE_OOB` (R121, R122). -/
theorem drwWith_reject_eq_wrap {x y : Reg} {n : Nibble} {s : State} (h : ¬ spriteOutsideMem n s)
    (hinside : ¬ spriteLeavesGrid x y n s) : drwWith .reject x y n s = drwWith .wrap x y n s := by
  have hon : offDisplay .reject (cellsUnderSprite x y n s) = false :=
    Bool.eq_false_iff.mpr fun hoff => hinside (spriteLeavesGrid_iff.mpr (offDisplay_reject_iff.mp hoff))
  rw [drwWith_of_inMem .reject x y h, if_neg (Bool.eq_false_iff.mp hon), drwWith_wrap_of_inMem x y h, map_pixelIndex_reject hon]

/-- DRW under `wrap` draws every sprite whose bytes are inside `MEM` (R122). -/
theorem drawn_of_drwWith_wrap (x y : Reg) {n : Nibble} {s : State} (h : ¬ spriteOutsideMem n s) :
    ∃ t : State, drwWith .wrap x y n s = .next t ∧ drawn (spriteCoversWrapped x y n s) s t := by
  have hrows : (s.mem.readBytes s.i.toNat n.toNat).length ≤ 32 := by
    have hn := n.isLt
    rw [Memory.length_readBytes]
    omega
  exact ⟨_, drwWith_wrap_of_inMem x y h, drawn_flipAndFlag s (nodup_map_pixelIndex_wrap _ _ hrows)
    (List.forall_mem_map.mpr fun p _ => pixelIndex_wrap_lt p) fun _ _ hcol _ => mem_map_pixelIndex_wrap_iff hcol⟩

end Sys2Proof.Laws

namespace Sys2Proof.Proofs

open Sys2Proof.Machine Sys2Proof.Claim Sys2Proof.Laws

/-- Settles O36: the memory test comes before the display test, and a sprite that passes both is drawn as under `wrap`. -/
theorem drwXorsTheSpriteAndReportsCollision : Obligations.DrwXorsTheSpriteAndReportsCollision := by
  unfold Obligations.DrwXorsTheSpriteAndReportsCollision
  refine fun x y n s => ⟨encodedAs_formatXY 0xD n (RowMatch.drw x y n) rfl, fun hmem => drwWith_of_outsideMem .reject x y hmem,
    fun hmem hleaves => drwWith_reject_of_leavesGrid hmem hleaves, fun hmem hinside => ?_⟩
  rw [exec_drw, drwWith_reject_eq_wrap hmem hinside, spriteCovers_eq_wrapped hinside]
  exact drawn_of_drwWith_wrap x y hmem

/-- Settles O37: the wrapped cells of a sprite are distinct pixels, so each is flipped once. -/
theorem drwUnderWrap : Obligations.DrwUnderWrap := by
  unfold Obligations.DrwUnderWrap
  exact fun x y n s => ⟨fun hmem => drwWith_of_outsideMem .wrap x y hmem, fun hmem => drawn_of_drwWith_wrap x y hmem⟩

/-- Settles O35: the display becomes the zero bit vector. -/
theorem clsClearsEveryPixel : Obligations.ClsClearsEveryPixel := by
  unfold Obligations.ClsClearsEveryPixel
  exact ⟨encodedAs_of_rowMatch RowMatch.cls rfl, fun s => ⟨_, exec_cls s, rfl, fun _ _ _ _ => BitVec.getLsbD_zero⟩⟩

end Sys2Proof.Proofs
end

section
/-! SUPPORT. What the key and timer instructions leave: the skips by whether `V[x]` is a key index, the key wait by whether a key is
down, the timers by one equation each (R130 to R135). -/

namespace Sys2Proof.Laws

open Sys2Proof.Machine Sys2Proof.Claim

/-! ## The words of format X in any family (R62, R65) -/

/-- A word of format X, its low byte added to the family's own value. -/
theorem encodedAs_formatX (op : Nibble) (low : Byte) {x : Reg} {i : Instr} (hr : RowMatch.Statement i)
    (he : encode i = formatXB op x low) : encodedAs (4096 * op.toNat + low.toNat + 256 * x.toNat) i := by
  have h := encodedAs_formatXB op hr he
  rwa [Nat.add_right_comm] at h

/-! ## Skips on a key (R130, R131) -/

/-- Above 15 the register holds no key index: it is not masked (the spec's decision D15). -/
theorem keyIndex_of_gt {x : Reg} {s : State} (h : 15 < (s.readV x).toNat) : s.keyIndex x = none := if_pos h

theorem keyIndex_of_le {x : Reg} {s : State} (h : (s.readV x).toNat ≤ 15) : s.keyIndex x = some (s.readV x).toNat :=
  if_neg (Nat.not_lt.mpr h)

theorem exec_skp_of_gt {x : Reg} {s : State} (h : 15 < (s.readV x).toNat) :
    exec (.skp x) s = .next (s.raise .keyIndexOutOfRange (encode (.skp x))) := by
  simp only [exec, execSkp, keyIndex_of_gt h]
  rfl

theorem exec_sknp_of_gt {x : Reg} {s : State} (h : 15 < (s.readV x).toNat) :
    exec (.sknp x) s = .next (s.raise .keyIndexOutOfRange (encode (.sknp x))) := by
  simp only [exec, execSknp, keyIndex_of_gt h]
  rfl

theorem exec_skp_of_le {x : Reg} {s : State} (h : (s.readV x).toNat ≤ 15) :
    exec (.skp x) s =
      .next { s with pc := if s.keys.getLsbD (s.readV x).toNat = true then s.pc + 4 else s.pc + 2 } := by
  simp only [exec, execSkp, keyIndex_of_le h]
  exact congrArg Host.Outcome.next (skipIf_of_iff s Iff.rfl)

theorem exec_sknp_of_le {x : Reg} {s : State} (h : (s.readV x).toNat ≤ 15) :
    exec (.sknp x) s =
      .next { s with pc := if s.keys.getLsbD (s.readV x).toNat = false then s.pc + 4 else s.pc + 2 } := by
  simp only [exec, execSknp, keyIndex_of_le h]
  exact congrArg Host.Outcome.next (skipIf_of_iff s (iff_of_eq (Bool.not_eq_true' _)))

/-! ## The key wait (R132) -/

/-- With no key down the only effect is the event `key_wait` (R132). -/
theorem exec_ldVxK_of_noKey (x : Reg) {s : State} (h : s.keys = 0) :
    exec (.ldVxK x) s = .next { s with event := some .keyWait } := if_pos h

/-- With some key down it is one register write, of the key selected; the latch is kept (R132; the spec's decision D16). -/
theorem exec_ldVxK_of_keyDown (x : Reg) {s : State} (h : s.keys ≠ 0) : exec (.ldVxK x) s = s.result x (keySelect s.keys) :=
  if_neg h

/-! ## The timers (R133, R134, R135, R171) -/

theorem exec_ldVxDT (x : Reg) (s : State) : exec (.ldVxDT x) s = s.result x s.dt := rfl

theorem exec_ldDTVx (x : Reg) (s : State) : exec (.ldDTVx x) s = .next { s with dt := s.readV x, pc := s.pc + 2 } := rfl

theorem exec_ldSTVx (x : Reg) (s : State) : exec (.ldSTVx x) s = .next { s with st := s.readV x, pc := s.pc + 2 } := rfl

/-- The level output follows `ST` (R171). -/
theorem tone_iff {s : State} : s.tone = true ↔ 0 < s.st.toNat := decide_eq_true_iff

end Sys2Proof.Laws

namespace Sys2Proof.Proofs

open Sys2Proof.Machine Sys2Proof.Claim Sys2Proof.Laws

/-- Settles O41: the one function is the model's `keySelect`, of which nothing is used but that its key is down. -/
theorem keyWaitPollsTheLatch : Obligations.KeyWaitPollsTheLatch := by
  unfold Obligations.KeyWaitPollsTheLatch
  refine ⟨fun keys => (keySelect keys).toNat, fun _ hdown => keySelect_down hdown, fun x s =>
    ⟨encodedAs_familyF 0x0A (RowMatch.ldVxK x) rfl, fun hnone => exec_ldVxK_of_noKey x hnone, fun hdown => ?_⟩⟩
  obtain ⟨t, ht, hframe, hx, hother⟩ := leaves_of_result (exec_ldVxK_of_keyDown x hdown)
  exact ⟨t, ht, hframe, congrArg BitVec.toNat hx, hother⟩

/-- Settles O40: `V[x]` is above 15 or is a key index, and each skip has one equation for either. -/
theorem keySkipsTestTheLatch : Obligations.KeySkipsTestTheLatch := by
  unfold Obligations.KeySkipsTestTheLatch
  exact fun x s => ⟨encodedAs_formatX 0xE 0x9E (RowMatch.skp x) rfl, encodedAs_formatX 0xE 0xA1 (RowMatch.sknp x) rfl,
    fun hgt => ⟨exec_skp_of_gt hgt, exec_sknp_of_gt hgt⟩, fun hle => ⟨exec_skp_of_le hle, exec_sknp_of_le hle⟩⟩

/-- Settles O42: reading `DT` is one register write, setting a timer writes that timer and `PC`, and `tone` is read off `ST`. -/
theorem timerInstructions : Obligations.TimerInstructions := by
  unfold Obligations.TimerInstructions
  exact fun x s => ⟨encodedAs_familyF 0x07 (RowMatch.ldVxDT x) rfl, encodedAs_familyF 0x15 (RowMatch.ldDTVx x) rfl,
    encodedAs_familyF 0x18 (RowMatch.ldSTVx x) rfl, leaves_of_result (exec_ldVxDT x s), exec_ldDTVx x s,
    ⟨_, exec_ldSTVx x s, rfl, tone_iff⟩⟩

end Sys2Proof.Proofs
end

section
/-! SUPPORT. A STEP on a word that no row of the opcode map matches (R66, R140). -/

namespace Sys2Proof.Laws

open Sys2Proof.Machine

/-- A word that no row matches leaves its event and `pc + 2`, and nothing else (R140). -/
theorem runWord_of_unmatched {ins : Word} (h : ∀ r ∈ opcodeTable true, ins &&& r.mask ≠ r.pat) (s : State) :
    runWord ins s = .next { s with event := some (.unknownOp ins), pc := s.pc + 2 } := by
  have hd : decodeWord ins = .error (.unmatched ins) := decodeWord_eq_unmatched_iff.mpr h
  simp only [runWord, hd]
  rfl

end Sys2Proof.Laws

namespace Sys2Proof.Proofs

open Sys2Proof.Machine Sys2Proof.Laws

/-- Settles O9: the STEP runs the word it fetched, and the decoder rejects that word by name. -/
theorem unmatchedWordIsATwoByteNop : Obligations.UnmatchedWordIsATwoByteNop := by
  unfold Obligations.UnmatchedWordIsATwoByteNop
  exact fun s _ hf hfetch hrows => (stepCommand_of_fetch hf hfetch).trans (runWord_of_unmatched hrows s)

end Sys2Proof.Proofs
end

section
/-! SUPPORT. What the host's commands keep: the fault registers, the rest of memory, the finished state (R148, R149, R153, R154). -/

namespace Sys2Proof.Laws

open Sys2Proof.Machine Sys2Proof.Claim

/-! ## LOAD_PROGRAM (R149) -/

/-- Above 3583 bytes only the event is raised (R149; the spec's decision D21). -/
theorem loadProgram_of_gt {bytes : List Byte} (h : 3583 < bytes.length) (s : State) :
    loadProgram bytes s = { s with event := some .programTooLarge } := if_pos h

/-- Up to 3583 bytes the whole program is stored from `0x200` (R149). -/
theorem loadProgram_of_le {bytes : List Byte} (h : bytes.length ≤ 3583) (s : State) :
    loadProgram bytes s = s.poke 0x200 bytes := if_neg (Nat.not_lt.mpr h)

/-- Bytes stored from `a` leave every byte below `a` and past the last of them, also where there are none (R46). -/
theorem read_writeBytes_of_not_covered (m : Memory) {a k : Nat} {bs : List Byte} (h : k < a ∨ a + bs.length ≤ k) :
    (m.writeBytes a bs).read k = m.read k := by
  rw [Memory.read_writeBytes, dif_neg (by omega)]

/-! ## Commands that neither read nor write the fault registers (R153) -/

/-- The operation keeps the fault registers, and what it does to the rest of the state does not depend on them. -/
def IgnoresFault (f : State → State) : Prop :=
  ∀ s : State, (f s).fault = s.fault ∧ (f s).faultCause = s.faultCause ∧ (f s).faultIns = s.faultIns ∧
    f (withoutFault s) = withoutFault (f s)

theorem ignoresFault_tick : IgnoresFault tickCommand := fun _ => ⟨rfl, rfl, rfl, rfl⟩

theorem ignoresFault_setKey (k : Nibble) (pressed : Bool) : IgnoresFault (·.setKey k pressed) := fun _ => ⟨rfl, rfl, rfl, rfl⟩

theorem ignoresFault_loadProgram (bytes : List Byte) : IgnoresFault (loadProgram bytes) := by
  intro s
  rcases Nat.lt_or_ge 3583 bytes.length with hlarge | hfits
  · rw [loadProgram_of_gt hlarge, loadProgram_of_gt hlarge]
    exact ⟨rfl, rfl, rfl, rfl⟩
  · rw [loadProgram_of_le hfits, loadProgram_of_le hfits]
    exact ⟨rfl, rfl, rfl, rfl⟩

/-- TICK, SET_KEY and LOAD_PROGRAM are each one operation that ignores the fault registers (R153). -/
theorem exists_ignoresFault_eq_perform {c : Command} (h : c = .tick ∨ (∃ k p, c = .setKey k p) ∨ (∃ bs, c = .loadProgram bs)) :
    ∃ f : State → State, IgnoresFault f ∧ ∀ s, perform c s = .next (f s) := by
  obtain rfl | ⟨k, p, rfl⟩ | ⟨bs, rfl⟩ := h
  · exact ⟨_, ignoresFault_tick, fun _ => rfl⟩
  · exact ⟨_, ignoresFault_setKey k p, fun _ => rfl⟩
  · exact ⟨_, ignoresFault_loadProgram bs, fun _ => rfl⟩

/-- While a fault is latched a STEP does nothing (R153, R163). -/
theorem stepCommand_of_fault {s : State} (h : s.fault = true) : stepCommand s = .next s := by
  simp [stepCommand, h]

/-! ## The finished state (R154) -/

/-- Whether a program is finished shows in the fault latch, `PC` and `MEM` alone (R154). -/
theorem finished_of_eq {s t : State} (h : s.finished) (hfault : t.fault = s.fault) (hpc : t.pc = s.pc) (hmem : t.mem = s.mem) :
    t.finished := by
  have hfetch : t.fetch = s.fetch := by simp only [State.fetch, hpc, hmem]
  simpa only [State.finished, hfault, hpc, hfetch] using h

/-- In a finished state a STEP runs the jump to its own address, which writes to `PC` what it holds (R81, R154). -/
theorem stepCommand_of_finished {s : State} (h : s.finished) : stepCommand s = .next s := by
  obtain ⟨hf, nnn, hpc, hfetch⟩ := h
  have hdecode : decodeWord (encode (.jp nnn)) = .ok (.jp nnn) := decodeWord_eq_ok_iff.mpr (RowMatch.jp nnn)
  calc stepCommand s = runWord (encode (.jp nnn)) s := stepCommand_of_fetch hf hfetch
    _ = exec (.jp nnn) s := runWord_of_decodeWord hdecode s
    _ = .next { s with pc := nnn.setWidth 16 } := exec_jp nnn s
    _ = .next s := by rw [← hpc]

end Sys2Proof.Laws

namespace Sys2Proof.Proofs

open Sys2Proof.Machine Sys2Proof.Laws

/-- Settles O11: STEP tests the latch first, the three commands ignore the fault registers, and RESET writes them. -/
theorem aFaultedCoreOnlyIgnoresSteps : Obligations.AFaultedCoreOnlyIgnoresSteps := by
  unfold Obligations.AFaultedCoreOnlyIgnoresSteps
  refine fun s hs => ⟨stepCommand_of_fault hs, fun c hc => ?_, _, rfl, rfl, rfl, rfl⟩
  obtain ⟨f, hf, hperform⟩ := exists_ignoresFault_eq_perform hc
  obtain ⟨hfault, hcause, hins, hcommutes⟩ := hf s
  exact ⟨f s, hperform s, hfault.trans hs, hcause, hins, (hperform _).trans (congrArg _ hcommutes)⟩

/-- Settles O44: SET_KEY replaces the latch, and the law of the latch reads it bit by bit. -/
theorem setKeySetsOneLatchBit : Obligations.SetKeySetsOneLatchBit := by
  unfold Obligations.SetKeySetsOneLatchBit
  exact fun k pressed s => ⟨s.setKey k pressed, rfl, rfl, fun j hj => s.keyDown_setKey k pressed j hj⟩

/-- Settles O45: the program is too long or is stored whole, and the law of several writes reads the bytes back. -/
theorem loadProgramWritesAllOrNothing : Obligations.LoadProgramWritesAllOrNothing := by
  unfold Obligations.LoadProgramWritesAllOrNothing
  refine fun bytes s => ⟨fun hlarge => congrArg _ (loadProgram_of_gt hlarge s), fun hfits => ?_⟩
  exact ⟨s.poke 0x200 bytes, congrArg _ (loadProgram_of_le hfits s), rfl, fun _ hk => read_writeBytes_add s.mem 0x200 hk,
    fun _ ha => read_writeBytes_of_not_covered s.mem ha⟩

/-- Settles O54: a STEP repeats the jump, and neither TICK nor SET_KEY touches the fault latch, `PC` or `MEM`. -/
theorem aFinishedProgramStaysFinished : Obligations.AFinishedProgramStaysFinished := by
  unfold Obligations.AFinishedProgramStaysFinished
  exact fun s hs => ⟨stepCommand_of_finished hs, ⟨tickCommand s, rfl, rfl, finished_of_eq hs rfl rfl rfl⟩,
    fun k p => ⟨s.setKey k p, rfl, rfl, finished_of_eq hs rfl rfl rfl⟩⟩

end Sys2Proof.Proofs
end

section
/-! SUPPORT. The faults of a STEP: the condition of the table decides between the fault, taken with nothing else changed, and a next
state with the fault registers kept (R160, R161, R162). -/

namespace Sys2Proof.Laws

open Sys2Proof.Machine Sys2Proof.Claim

/-! ## Where a condition of the table holds (R160, R161, R162) -/

/-- Each cause of the execute stage is taken by the instructions its row of the table names (R160). -/
theorem exec_of_faultCondition {i : Instr} {s : State} {cause : FaultCause} (h : faultCondition i s cause) :
    exec i s = .next (s.raise cause (encode i)) := by
  cases cause with
  | fetchOutOfRange => exact h.elim
  | stackOverflow =>
    obtain ⟨⟨nnn, rfl⟩, hfull⟩ := h
    exact exec_call_of_full nnn hfull
  | stackUnderflow =>
    obtain ⟨rfl, hempty⟩ := h
    exact exec_ret_of_empty hempty
  | memOutOfRange =>
    obtain ⟨x, y, n, rfl, hmem⟩ | ⟨x, rfl, hgt⟩ | ⟨x, rfl | rfl, hgt⟩ := h
    · exact drwWith_of_outsideMem .reject x y hmem
    · exact exec_ldB_of_gt hgt
    · exact exec_stRegs_of_gt hgt
    · exact exec_ldRegs_of_gt hgt
  | displayOutOfRange =>
    obtain ⟨x, y, n, rfl, hmem, hleaves⟩ := h
    exact drwWith_reject_of_leavesGrid hmem hleaves
  | keyIndexOutOfRange =>
    obtain ⟨x, rfl | rfl, hgt⟩ := h
    · exact exec_skp_of_gt hgt
    · exact exec_sknp_of_gt hgt

/-! ## Where none holds (R160) -/

/-- `t` has the fault registers of `s` (R22). -/
def FaultRegsKept (s t : State) : Prop := t.fault = s.fault ∧ t.faultCause = s.faultCause ∧ t.faultIns = s.faultIns

/-- An instruction none of whose conditions holds goes on with the fault registers as they were: those that can fault by the
equation of their other outcome, the key wait by each of its two, the rest by their definition. -/
theorem exec_of_no_faultCondition {i : Instr} {s : State} (h : ∀ cause, ¬ faultCondition i s cause) :
    ∃ t : State, exec i s = .next t ∧ FaultRegsKept s t := by
  cases i with
  | ret =>
    have hne : s.sp.val ≠ 0 := fun hempty => h .stackUnderflow ⟨rfl, hempty⟩
    obtain ⟨k, hk⟩ := Nat.exists_eq_succ_of_ne_zero hne
    exact ⟨_, exec_ret_of_sp (by omega) hk, rfl, rfl, rfl⟩
  | call nnn =>
    have hne : s.sp.val ≠ 16 := fun hfull => h .stackOverflow ⟨⟨nnn, rfl⟩, hfull⟩
    exact ⟨_, exec_call_of_room nnn (by omega), rfl, rfl, rfl⟩
  | drw x y n =>
    have hmem : ¬ spriteOutsideMem n s := fun hout => h .memOutOfRange (.inl ⟨x, y, n, rfl, hout⟩)
    have hinside : ¬ spriteLeavesGrid x y n s := fun hleaves => h .displayOutOfRange ⟨x, y, n, rfl, hmem, hleaves⟩
    exact ⟨_, (drwWith_reject_eq_wrap hmem hinside).trans (drwWith_wrap_of_inMem x y hmem), rfl, rfl, rfl⟩
  | ldB x =>
    have hle := Nat.not_lt.mp fun hgt => h .memOutOfRange (.inr (.inl ⟨x, rfl, hgt⟩))
    exact ⟨_, exec_ldB_of_le hle, rfl, rfl, rfl⟩
  | stRegs x =>
    have hle := Nat.not_lt.mp fun hgt => h .memOutOfRange (.inr (.inr ⟨x, .inl rfl, hgt⟩))
    exact ⟨_, exec_stRegs_of_le hle, rfl, rfl, rfl⟩
  | ldRegs x =>
    have hle := Nat.not_lt.mp fun hgt => h .memOutOfRange (.inr (.inr ⟨x, .inr rfl, hgt⟩))
    exact ⟨_, exec_ldRegs_of_le hle, rfl, rfl, rfl⟩
  | skp x =>
    have hle := Nat.not_lt.mp fun hgt => h .keyIndexOutOfRange ⟨x, .inl rfl, hgt⟩
    exact ⟨_, exec_skp_of_le hle, rfl, rfl, rfl⟩
  | sknp x =>
    have hle := Nat.not_lt.mp fun hgt => h .keyIndexOutOfRange ⟨x, .inr rfl, hgt⟩
    exact ⟨_, exec_sknp_of_le hle, rfl, rfl, rfl⟩
  | ldVxK x =>
    by_cases hkeys : s.keys = 0
    · exact ⟨_, exec_ldVxK_of_noKey x hkeys, rfl, rfl, rfl⟩
    · exact ⟨_, exec_ldVxK_of_keyDown x hkeys, rfl, rfl, rfl⟩
  | _ => exact ⟨_, rfl, rfl, rfl, rfl⟩

/-- What an instruction can do to the fault registers: take a fault of the table, or keep them (R160, R161). -/
theorem exec_fault_cases (i : Instr) (s : State) :
    (∃ cause, faultCondition i s cause ∧ exec i s = .next (s.raise cause (encode i))) ∨
    ∃ t : State, exec i s = .next t ∧ FaultRegsKept s t := by
  by_cases h : ∃ cause, faultCondition i s cause
  · obtain ⟨cause, hcause⟩ := h
    exact .inl ⟨cause, hcause, exec_of_faultCondition hcause⟩
  · exact .inr (exec_of_no_faultCondition (not_exists.mp h))

/-! ## FETCH_OUT_OF_RANGE is the fetch's own (R160) -/

theorem code_eq_one_iff {cause : FaultCause} : cause.code = 1 ↔ cause = .fetchOutOfRange := by
  cases cause <;> decide

/-- A word that was fetched never leaves a fault with cause 1: the table gives that cause to no instruction (R160). -/
theorem faultCause_ne_one_of_runWord {ins : Word} {s t : State} (hf : s.fault = false) (h : runWord ins s = .next t)
    (hfault : t.fault = true) : t.faultCause ≠ 1 := by
  cases hdecode : decodeWord ins with
  | error e =>
    have hexec : runWord ins s = execUnmatched ins s := by simp [runWord, hdecode]
    obtain rfl := Host.Outcome.next.inj (h.symm.trans hexec)
    exact absurd (hfault.symm.trans hf) (by decide)
  | ok i =>
    have hexec := h.symm.trans (runWord_of_decodeWord hdecode s)
    obtain ⟨cause, hcause, hraise⟩ | ⟨u, hu, hkept, -, -⟩ := exec_fault_cases i s
    · obtain rfl := Host.Outcome.next.inj (hexec.trans hraise)
      intro hone
      obtain rfl := code_eq_one_iff.mp hone
      exact hcause
    · obtain rfl := Host.Outcome.next.inj (hexec.trans hu)
      exact absurd (hfault.symm.trans (hkept.trans hf)) (by decide)

/-- A STEP with no fault latched ends with cause 1 exactly where there is no word to fetch (R60, R160). -/
theorem stepCommand_fetch_fault_iff {s : State} (hf : s.fault = false) :
    (∃ t : State, stepCommand s = .next t ∧ t.fault = true ∧ t.faultCause = 1) ↔ 0xFFE < s.pc.toNat := by
  constructor
  · rintro ⟨t, ht, hfault, hone⟩
    by_contra hle
    have hrun := stepCommand_of_fetch hf (fetch_of_le (Nat.not_lt.mp hle))
    exact faultCause_ne_one_of_runWord hf (hrun.symm.trans ht) hfault hone
  · exact fun hgt => ⟨_, stepCommand_of_no_fetch hf (fetch_of_gt hgt), rfl, rfl⟩

end Sys2Proof.Laws

namespace Sys2Proof.Proofs

open Sys2Proof.Machine Sys2Proof.Laws

/-- Settles O15: an instruction takes the fault of the condition that holds or keeps the fault registers, and none of its
conditions is the fetch's. -/
theorem faultsAreThoseOfTheTableAndPrecise : Obligations.FaultsAreThoseOfTheTableAndPrecise := by
  unfold Obligations.FaultsAreThoseOfTheTableAndPrecise
  refine ⟨rfl, rfl, rfl, rfl, rfl, rfl, fun s hf => ⟨stepCommand_fetch_fault_iff hf, fun hgt => ?_⟩, fun i s => ⟨?_, ?_⟩⟩
  · exact stepCommand_of_no_fetch hf (fetch_of_gt hgt)
  · exact fun cause hcause => exec_of_faultCondition hcause
  · exact fun hnone => exec_of_no_faultCondition hnone

end Sys2Proof.Proofs
end

section
/-! SUPPORT. What a TICK leaves: both timers one lower, and the event of the sound timer it found (R147, R170). -/

namespace Sys2Proof.Laws

open Sys2Proof.Machine

/-- A timer at 0 stays there: the subtraction of naturals, with no wrap to 255 (R170). -/
theorem toNat_countdown (b : Byte) : (countdown b).toNat = b.toNat - 1 := by
  rw [countdown]
  split
  case isTrue h => simp [h]
  case isFalse h => bv_omega

theorem countdown_eq_zero_iff {b : Byte} : countdown b = 0 ↔ b.toNat ≤ 1 := by
  rw [← BitVec.toNat_inj, toNat_countdown]
  exact Nat.sub_eq_zero_iff_le

theorem toneEvent_of_zero {st : Byte} (h : st.toNat = 0) : toneEvent st = none := if_pos (BitVec.eq_of_toNat_eq h)

theorem toneEvent_of_one {st : Byte} (h : st.toNat = 1) : toneEvent st = some .toneOff := by
  have hne : st ≠ 0 := by rintro rfl; exact absurd h (by decide)
  rw [toneEvent, if_neg hne, if_pos (countdown_eq_zero_iff.mpr h.le)]

theorem toneEvent_of_two_le {st : Byte} (h : 2 ≤ st.toNat) : toneEvent st = some .toneOn := by
  have hne : st ≠ 0 := by rintro rfl; exact absurd h (by decide)
  rw [toneEvent, if_neg hne, if_neg (mt countdown_eq_zero_iff.mp (Nat.not_le.mpr h))]

end Sys2Proof.Laws

namespace Sys2Proof.Proofs

open Sys2Proof.Machine Sys2Proof.Laws

/-- Settles O43: each timer is counted down by itself, and the event depends on the `ST` that the TICK found. -/
theorem tickCountsBothTimersDown : Obligations.TickCountsBothTimersDown := by
  unfold Obligations.TickCountsBothTimersDown
  exact fun s => ⟨tickCommand s, rfl, rfl, toNat_countdown s.dt, toNat_countdown s.st, toneEvent_of_zero, toneEvent_of_one,
    toneEvent_of_two_le⟩

end Sys2Proof.Proofs
end

section
/-! SUPPORT. What RESET leaves in the pieces of the state that hold more than one value: the registers, the stack, the font, the
display and the key latch (R26, R190). -/

namespace Sys2Proof.Laws

open Sys2Proof.Machine

variable (s : State)

theorem readV_resetCore (r : Reg) : s.resetCore.readV r = 0 := Vector.getElem_replicate (reg_lt r)

theorem stack_resetCore {k : Nat} (h : k < 16) : s.resetCore.stack[k] = 0 := Vector.getElem_replicate h

theorem pix_resetCore (col row : Nat) : s.resetCore.pix col row = false := BitVec.getLsbD_zero

theorem keyDown_resetCore (k : Nat) : s.resetCore.keyDown k = false := BitVec.getLsbD_zero

/-- No cell is listed, so every address reads as its reset contents. -/
theorem read_mem_resetCore (a : Nat) : s.resetCore.mem.read a = resetByte a := rfl

/-- The reset contents from `FONT_BASE` on are the font (R26). -/
theorem resetByte_fontBase_add (k : Nat) : resetByte (Config.fontBase + k) = Config.fontTable.getD k 0 := by
  rw [resetByte, if_pos (Nat.le_add_right _ _), Nat.add_sub_cancel_left]

/-- What RESET overwrites does not reach the state it leaves, so a second RESET changes nothing (R190). -/
theorem resetCore_resetCore : s.resetCore.resetCore = s.resetCore := rfl

end Sys2Proof.Laws

namespace Sys2Proof.Proofs

open Sys2Proof.Machine Sys2Proof.Laws

/-- Settles O46: the registers, the stack, the memory, the display and the keys by the laws of RESET, the other pieces by its
definition. -/
theorem resetSetsEveryPieceOfState : Obligations.ResetSetsEveryPieceOfState := by
  unfold Obligations.ResetSetsEveryPieceOfState
  intro s
  have hfont (k : Nat) : s.resetCore.mem.read (0x050 + k) = Config.fontTable.getD k 0 :=
    (read_mem_resetCore s _).trans (resetByte_fontBase_add k)
  have hzero (a : Nat) (h : a < 0x050 ∨ 0x09F < a) : s.resetCore.mem.read a = 0 :=
    (read_mem_resetCore s a).trans (resetByte_eq_zero h)
  have htwice : perform .reset s.resetCore = .next s.resetCore := congrArg Host.Outcome.next (resetCore_resetCore s)
  exact ⟨s.resetCore, rfl, htwice, readV_resetCore s, rfl, rfl, rfl, fun _ => stack_resetCore s, rfl, rfl, rfl,
    fun k _ => hfont k, hzero, fun col row _ _ => pix_resetCore s col row, fun k _ => keyDown_resetCore s k,
    rfl, rfl, rfl, rfl⟩

end Sys2Proof.Proofs
end

section
/-! SUPPORT. Encoder and decoder against each other: every instruction has a row, so what is encoded decodes back; and the words that
no row matches, read off the masks as arithmetic on the word (R62, R64, R65, R66). -/

namespace Sys2Proof.Laws

/-! ## Every instruction has a row (R65) -/

/-- The row lemmas of Laws/PerInstr.lean over all the constructors. -/
theorem rowMatch_statement (i : Instr) : RowMatch.Statement i := by
  cases i with
  | cls => exact RowMatch.cls
  | ret => exact RowMatch.ret
  | jp nnn => exact RowMatch.jp nnn
  | call nnn => exact RowMatch.call nnn
  | seImm x nn => exact RowMatch.seImm x nn
  | sneImm x nn => exact RowMatch.sneImm x nn
  | seReg x y => exact RowMatch.seReg x y
  | ldImm x nn => exact RowMatch.ldImm x nn
  | addImm x nn => exact RowMatch.addImm x nn
  | ldReg x y => exact RowMatch.ldReg x y
  | orReg x y => exact RowMatch.orReg x y
  | andReg x y => exact RowMatch.andReg x y
  | xorReg x y => exact RowMatch.xorReg x y
  | addReg x y => exact RowMatch.addReg x y
  | sub x y => exact RowMatch.sub x y
  | shr x y => exact RowMatch.shr x y
  | subn x y => exact RowMatch.subn x y
  | shl x y => exact RowMatch.shl x y
  | sneReg x y => exact RowMatch.sneReg x y
  | ldI nnn => exact RowMatch.ldI nnn
  | jpV0 nnn => exact RowMatch.jpV0 nnn
  | rnd x nn => exact RowMatch.rnd x nn
  | drw x y n => exact RowMatch.drw x y n
  | skp x => exact RowMatch.skp x
  | sknp x => exact RowMatch.sknp x
  | ldVxDT x => exact RowMatch.ldVxDT x
  | ldVxK x => exact RowMatch.ldVxK x
  | ldDTVx x => exact RowMatch.ldDTVx x
  | ldSTVx x => exact RowMatch.ldSTVx x
  | addI x => exact RowMatch.addI x
  | ldF x => exact RowMatch.ldF x
  | ldB x => exact RowMatch.ldB x
  | stRegs x => exact RowMatch.stRegs x
  | ldRegs x => exact RowMatch.ldRegs x

/-- The decoder gives every instruction back from its word (R64). -/
theorem decodeWord_encode (i : Instr) : decodeWord (encode i) = .ok i := decodeWord_eq_ok_iff.mpr (rowMatch_statement i)

/-! ## A mask as arithmetic (R61, R64) -/

/-- The mask of formats A, XB and XYN keeps the high nibble. -/
theorem toNat_and_F000 (w : Word) : (w &&& 0xF000#16).toNat = w.toNat / 4096 * 4096 := by
  have hw := w.isLt
  have hbits : w &&& 0xF000#16 = w >>> 12 <<< 12 := by
    apply BitVec.eq_of_getLsbD_eq; intro j hj; interval_cases j <;> simp
  rw [hbits, BitVec.toNat_shiftLeft, BitVec.toNat_ushiftRight, Nat.shiftRight_eq_div_pow, Nat.shiftLeft_eq]
  omega

/-- A mask of the high nibble and of the low `k` bits keeps both (formats XY and X). -/
theorem toNat_and_highNibble_or (w : Word) {k : Nat} (hk : k ≤ 12) {low : Word} (hlow : low.toNat = 2 ^ k - 1) :
    (w &&& (0xF000#16 ||| low)).toNat = w.toNat / 4096 * 4096 + w.toNat % 2 ^ k := by
  have hlt : w.toNat % 2 ^ k < 2 ^ 12 :=
    (Nat.mod_lt _ (Nat.two_pow_pos k)).trans_le (Nat.pow_le_pow_right (by decide) hk)
  have hsum := shiftLeft_or_eq_add (w.toNat / 4096) (w.toNat % 2 ^ k) 12 hlt
  rw [Nat.shiftLeft_eq] at hsum
  rwa [BitVec.and_or_distrib_left, BitVec.toNat_or, toNat_and_F000, BitVec.toNat_and w low, hlow, Nat.and_two_pow_sub_one_eq_mod]

/-- A row of format A, XB or XYN matches by the family, the word divided by 4096. -/
theorem and_F000_eq_iff {w pat : Word} (hpat : pat.toNat % 4096 = 0) :
    w &&& 0xF000#16 = pat ↔ w.toNat / 4096 = pat.toNat / 4096 := by
  rw [← BitVec.toNat_inj, toNat_and_F000]
  omega

/-- A row of format XY matches by the family and the low nibble. -/
theorem and_F00F_eq_iff {w pat : Word} (hpat : pat.toNat % 4096 < 16) :
    w &&& 0xF00F#16 = pat ↔ w.toNat / 4096 = pat.toNat / 4096 ∧ w.toNat % 16 = pat.toNat % 16 := by
  have h := toNat_and_highNibble_or w (k := 4) (low := 0x000F#16) (by decide) rfl
  rw [← BitVec.toNat_inj, show 0xF00F#16 = 0xF000#16 ||| 0x000F#16 from rfl, h]
  omega

/-- A row of format X matches by the family and the low byte. -/
theorem and_F0FF_eq_iff {w pat : Word} (hpat : pat.toNat % 4096 < 256) :
    w &&& 0xF0FF#16 = pat ↔ w.toNat / 4096 = pat.toNat / 4096 ∧ w.toNat % 256 = pat.toNat % 256 := by
  have h := toNat_and_highNibble_or w (k := 8) (low := 0x00FF#16) (by decide) rfl
  rw [← BitVec.toNat_inj, show 0xF0FF#16 = 0xF000#16 ||| 0x00FF#16 from rfl, h]
  omega

/-- A row whose mask is the whole word matches its own pattern only. -/
theorem and_FFFF_eq_iff {w pat : Word} : w &&& 0xFFFF#16 = pat ↔ w.toNat = pat.toNat := by
  rw [← BitVec.toNat_inj, show w &&& 0xFFFF#16 = w from BitVec.and_allOnes]

end Sys2Proof.Laws

namespace Sys2Proof.Proofs

open Sys2Proof.Machine Sys2Proof.Laws

/-- Settles O2: the instruction's own row matches its word, and the two bytes of a word make the word again. -/
theorem everyInstructionDecodesFromItsEncoding : Obligations.EveryInstructionDecodesFromItsEncoding := by
  unfold Obligations.EveryInstructionDecodesFromItsEncoding
  refine fun i rest => ⟨decodeWord_encode i, decode_eq_ok_iff.mpr ⟨_, _, rfl, ?_⟩⟩
  rw [wordOfBytes_bytes]
  exact decodeWord_encode i

/-- Settles O3: the row that matched the word encodes back to it. -/
theorem encodingADecodedWordGivesItBack : Obligations.EncodingADecodedWordGivesItBack := by
  unfold Obligations.EncodingADecodedWordGivesItBack
  exact fun _ _ h => encode_of_decodeWord h

/-- Settles O4: each number is the value of the row's format on the fields. -/
theorem encodingsAreThePatternsOfTheOpcodeMap : Obligations.EncodingsAreThePatternsOfTheOpcodeMap := by
  unfold Obligations.EncodingsAreThePatternsOfTheOpcodeMap
  exact fun x y n nn nnn => ⟨encodedAs_of_rowMatch RowMatch.cls rfl, encodedAs_of_rowMatch RowMatch.ret rfl,
    encodedAs_formatA 0x1 (RowMatch.jp nnn) rfl, encodedAs_formatA 0x2 (RowMatch.call nnn) rfl,
    encodedAs_formatXB 0x3 (RowMatch.seImm x nn) rfl, encodedAs_formatXB 0x4 (RowMatch.sneImm x nn) rfl,
    encodedAs_formatXY 0x5 0x0 (RowMatch.seReg x y) rfl, encodedAs_formatXB 0x6 (RowMatch.ldImm x nn) rfl,
    encodedAs_formatXB 0x7 (RowMatch.addImm x nn) rfl, encodedAs_family8 0x0 (RowMatch.ldReg x y) rfl,
    encodedAs_family8 0x1 (RowMatch.orReg x y) rfl, encodedAs_family8 0x2 (RowMatch.andReg x y) rfl,
    encodedAs_family8 0x3 (RowMatch.xorReg x y) rfl, encodedAs_family8 0x4 (RowMatch.addReg x y) rfl,
    encodedAs_family8 0x5 (RowMatch.sub x y) rfl, encodedAs_family8 0x6 (RowMatch.shr x y) rfl,
    encodedAs_family8 0x7 (RowMatch.subn x y) rfl, encodedAs_family8 0xE (RowMatch.shl x y) rfl,
    encodedAs_formatXY 0x9 0x0 (RowMatch.sneReg x y) rfl, encodedAs_formatA 0xA (RowMatch.ldI nnn) rfl,
    encodedAs_formatA 0xB (RowMatch.jpV0 nnn) rfl, encodedAs_formatXB 0xC (RowMatch.rnd x nn) rfl,
    encodedAs_formatXY 0xD n (RowMatch.drw x y n) rfl, encodedAs_formatX 0xE 0x9E (RowMatch.skp x) rfl,
    encodedAs_formatX 0xE 0xA1 (RowMatch.sknp x) rfl, encodedAs_familyF 0x07 (RowMatch.ldVxDT x) rfl,
    encodedAs_familyF 0x0A (RowMatch.ldVxK x) rfl, encodedAs_familyF 0x15 (RowMatch.ldDTVx x) rfl,
    encodedAs_familyF 0x18 (RowMatch.ldSTVx x) rfl, encodedAs_familyF 0x1E (RowMatch.addI x) rfl,
    encodedAs_familyF 0x29 (RowMatch.ldF x) rfl, encodedAs_familyF 0x33 (RowMatch.ldB x) rfl,
    encodedAs_familyF 0x55 (RowMatch.stRegs x) rfl, encodedAs_familyF 0x65 (RowMatch.ldRegs x) rfl⟩

/-- Settles O5: each mask as arithmetic on the word, then family by family, the family being the word divided by 4096. -/
theorem unmatchedWordsAreTheSixFamilies : Obligations.UnmatchedWordsAreTheSixFamilies := by
  unfold Obligations.UnmatchedWordsAreTheSixFamilies
  intro w
  have hfam : w.toNat / 4096 < 16 := by have := w.isLt; omega
  rw [decodeWord_eq_unmatched_iff]
  generalize hq : w.toNat / 4096 = q at hfam ⊢
  simp only [opcodeTable, rowsFlow, rowsAlu, rowsMid, rowsX, rowA, rowXB, rowXY, rowX, ↓reduceIte, List.cons_append, List.nil_append,
    List.mem_cons, List.not_mem_nil, or_false, not_or, forall_eq_or_imp, forall_eq, ne_eq, not_and, BitVec.ofNat_eq_ofNat,
    and_FFFF_eq_iff, and_F000_eq_iff, and_F00F_eq_iff, and_F0FF_eq_iff, hq, BitVec.toNat_ofNat, Nat.reducePow, Nat.reduceMod,
    Nat.mod_self, Nat.reduceDiv, Nat.ofNat_pos, Nat.div_self, Nat.one_lt_ofNat, Nat.reduceLT]
  -- Every row now reads `q = family`, with its low bits where it has any: in each family the other families' rows fall away.
  interval_cases q <;> simp <;> omega

/-- Settles O6: the decoder computes on each of the eight words. -/
theorem wordsOfEachFamilyDecode : Obligations.WordsOfEachFamilyDecode := by
  unfold Obligations.WordsOfEachFamilyDecode
  decide

end Sys2Proof.Proofs
end

section
/-! SUPPORT. What an instruction can do, said once: it takes a fault of the table, or it has one of the effects listed here, each with
the fields it writes; and what each effect leaves unchanged (R14, R69, R160, R162). -/

namespace Sys2Proof.Laws

open Sys2Proof.Machine Sys2Proof.Claim

/-! ## The effects (R69, R80 to R135) -/

/-- The six skips of R69. -/
def IsSkip (i : Instr) : Prop :=
  (∃ x nn, i = .seImm x nn ∨ i = .sneImm x nn) ∨ (∃ x y, i = .seReg x y ∨ i = .sneReg x y) ∨ ∃ x, i = .skp x ∨ i = .sknp x

/-- The effects of an instruction that takes no fault, by the fields written. Every field not named is as before. -/
inductive Effect (s : State) : Instr → State → Prop where
  /-- General registers the table gives to the instruction (R90 to R100, R132, R133). -/
  | registers {i : Instr} (v : Vector Byte 16) (hv : ∀ r, ¬ mayWriteV r i → { s with v := v }.readV r = s.readV r) :
    Effect s i { s with v := v, pc := s.pc + 2 }
  /-- A byte of the input `rnd` sampled and `V[x]` written (R101). -/
  | sample (x : Reg) (nn : Byte) (v : Vector Byte 16) (hv : ∀ r, r ≠ x → { s with v := v }.readV r = s.readV r) :
    Effect s (.rnd x nn) { s with v := v, pc := s.pc + 2, draws := s.draws + 1 }
  /-- `V[0]..V[x]` loaded and `I` advanced (R115). -/
  | load (x : Reg) (v : Vector Byte 16) (a : Word) (hv : ∀ r, x.toNat < r.toNat → { s with v := v }.readV r = s.readV r) :
    Effect s (.ldRegs x) { s with v := v, i := a, pc := s.pc + 2 }
  /-- A sprite drawn and `VF` written (R121). -/
  | draw (x y : Reg) (n : Nibble) (v : Vector Byte 16) (d : Display)
    (hv : ∀ r, r ≠ VF → { s with v := v }.readV r = s.readV r) :
    Effect s (.drw x y n) { s with v := v, disp := d, pc := s.pc + 2 }
  /-- The display cleared (R120). -/
  | clear : Effect s .cls { s with disp := 0, pc := s.pc + 2 }
  /-- The test of a skip failed (R69). -/
  | pass {i : Instr} (hi : IsSkip i) : Effect s i { s with pc := s.pc + 2 }
  /-- The test of a skip held (R69, R84 to R87, R130, R131). -/
  | skip {i : Instr} (hi : IsSkip i) : Effect s i { s with pc := s.pc + 4 }
  /-- A jump to `nnn` (R81). -/
  | jump (nnn : Addr) : Effect s (.jp nnn) { s with pc := nnn.setWidth 16 }
  /-- A jump to `nnn + V[0]` (R83). -/
  | jumpV0 (nnn : Addr) : Effect s (.jpV0 nnn) { s with pc := nnn.setWidth 16 + (s.readV 0).setWidth 16 }
  /-- The own address pushed and a jump to `nnn` (R82). -/
  | call (nnn : Addr) (h : s.sp.val < 16) : Effect s (.call nnn) { s with
      stack := s.stack.set s.sp.val s.pc h, sp := ⟨s.sp.val + 1, by omega⟩, pc := nnn.setWidth 16 }
  /-- The address in the slot below `SP` popped (R80). -/
  | ret (k : Nat) (hk : k < 16) (h : s.sp.val = k + 1) : Effect s .ret { s with sp := ⟨k, by omega⟩, pc := s.stack[k] + 2 }
  /-- `I` written (R110, R111, R112). -/
  | index {i : Instr} (a : Word) (hi : (∃ nnn, i = .ldI nnn) ∨ ∃ x, i = .addI x ∨ i = .ldF x) :
    Effect s i { s with i := a, pc := s.pc + 2 }
  /-- Three digits stored inside `MEM` (R113). -/
  | digits (x : Reg) (bs : List Byte) (h : s.i.toNat + bs.length ≤ 0x1000) :
    Effect s (.ldB x) { s with mem := s.mem.writeBytes s.i.toNat bs, pc := s.pc + 2 }
  /-- Registers stored inside `MEM` and `I` advanced (R114). -/
  | store (x : Reg) (bs : List Byte) (a : Word) (h : s.i.toNat + bs.length ≤ 0x1000) :
    Effect s (.stRegs x) { s with mem := s.mem.writeBytes s.i.toNat bs, i := a, pc := s.pc + 2 }
  /-- No key down: the event `key_wait` alone (R132). -/
  | keyWait (x : Reg) (h : s.keys = 0) : Effect s (.ldVxK x) { s with event := some .keyWait }
  /-- The delay timer set (R134). -/
  | setDT (x : Reg) (b : Byte) : Effect s (.ldDTVx x) { s with dt := b, pc := s.pc + 2 }
  /-- The sound timer set (R135). -/
  | setST (x : Reg) (b : Byte) : Effect s (.ldSTVx x) { s with st := b, pc := s.pc + 2 }

/-- The instruction goes on, with one of the effects. -/
def Goes (i : Instr) (s : State) : Prop := ∃ t : State, exec i s = .next t ∧ Effect s i t

theorem goes_of_result {i : Instr} {s : State} {x : Reg} {b : Byte} (h : exec i s = s.result x b) (hx : mayWriteV x i) : Goes i s :=
  ⟨_, h, .registers _ fun _ hr => State.readV_writeV_ne s b fun he => hr (he ▸ hx)⟩

theorem goes_of_flagThenResult {i : Instr} {s : State} {x : Reg} {flag : Byte} {result : (Reg → Byte) → Byte}
    (h : exec i s = flagThenResult s x flag result) (hi : ∀ r, r = x ∨ r = VF → mayWriteV r i) : Goes i s := by
  refine ⟨_, h, .registers _ fun r hr => ?_⟩
  have hx : r ≠ x := fun he => hr (hi r (.inl he))
  have hVF : r ≠ VF := fun he => hr (hi r (.inr he))
  exact (State.readV_writeV_ne (s.writeV VF flag) _ hx).trans (State.readV_writeV_ne s flag hVF)

/-- The form of the skips' equations in Laws: `pc + 4` where the test holds, `pc + 2` where it fails. -/
theorem goes_of_skip {i : Instr} {s : State} {p : Prop} [Decidable p]
    (h : exec i s = .next { s with pc := if p then s.pc + 4 else s.pc + 2 })
    (hi : IsSkip i) : Goes i s := by
  by_cases hp : p
  · exact ⟨_, h, by rw [if_pos hp]; exact .skip hi⟩
  · exact ⟨_, h, by rw [if_neg hp]; exact .pass hi⟩

/-- An instruction none of whose conditions holds has one of the effects. -/
theorem goes_of_no_faultCondition {i : Instr} {s : State} (h : ∀ cause, ¬ faultCondition i s cause) : Goes i s := by
  cases i with
  | cls => exact ⟨_, exec_cls s, .clear⟩
  | ret =>
    have hne : s.sp.val ≠ 0 := fun hempty => h .stackUnderflow ⟨rfl, hempty⟩
    obtain ⟨k, hk⟩ := Nat.exists_eq_succ_of_ne_zero hne
    exact ⟨_, exec_ret_of_sp (by omega) hk, .ret k _ hk⟩
  | jp nnn => exact ⟨_, exec_jp nnn s, .jump nnn⟩
  | call nnn =>
    have hne : s.sp.val ≠ 16 := fun hfull => h .stackOverflow ⟨⟨nnn, rfl⟩, hfull⟩
    exact ⟨_, exec_call_of_room nnn (by omega), .call nnn _⟩
  | seImm x nn => exact goes_of_skip (exec_seImm x nn s) (.inl ⟨x, nn, .inl rfl⟩)
  | sneImm x nn => exact goes_of_skip (exec_sneImm x nn s) (.inl ⟨x, nn, .inr rfl⟩)
  | seReg x y => exact goes_of_skip (exec_seReg x y s) (.inr (.inl ⟨x, y, .inl rfl⟩))
  | ldImm x nn => exact goes_of_result (exec_ldImm x nn s) rfl
  | addImm x nn => exact goes_of_result (exec_addImm x nn s) rfl
  | ldReg x y => exact goes_of_result (exec_ldReg x y s) rfl
  | orReg x y => exact goes_of_result (exec_orReg x y s) rfl
  | andReg x y => exact goes_of_result (exec_andReg x y s) rfl
  | xorReg x y => exact goes_of_result (exec_xorReg x y s) rfl
  | addReg x y => exact goes_of_flagThenResult (exec_addReg x y s) fun _ hr => hr
  | sub x y => exact goes_of_flagThenResult (exec_sub x y s) fun _ hr => hr
  | shr x y => exact goes_of_flagThenResult (exec_shr x y s) fun _ hr => hr
  | subn x y => exact goes_of_flagThenResult (exec_subn x y s) fun _ hr => hr
  | shl x y => exact goes_of_flagThenResult (exec_shl x y s) fun _ hr => hr
  | sneReg x y => exact goes_of_skip (exec_sneReg x y s) (.inr (.inl ⟨x, y, .inr rfl⟩))
  | ldI nnn => exact ⟨_, exec_ldI nnn s, .index _ (.inl ⟨nnn, rfl⟩)⟩
  | jpV0 nnn => exact ⟨_, exec_jpV0 nnn s, .jumpV0 nnn⟩
  | rnd x nn => exact ⟨_, rfl, .sample x nn _ fun _ hr => State.readV_writeV_ne s _ hr⟩
  | drw x y n =>
    have hmem : ¬ spriteOutsideMem n s := fun hout => h .memOutOfRange (.inl ⟨x, y, n, rfl, hout⟩)
    have hinside : ¬ spriteLeavesGrid x y n s := fun hleaves => h .displayOutOfRange ⟨x, y, n, rfl, hmem, hleaves⟩
    exact ⟨_, (drwWith_reject_eq_wrap hmem hinside).trans (drwWith_wrap_of_inMem x y hmem),
      .draw x y n _ _ fun _ hr => State.readV_writeV_ne s _ hr⟩
  | skp x =>
    have hle := Nat.not_lt.mp fun hgt => h .keyIndexOutOfRange ⟨x, .inl rfl, hgt⟩
    exact goes_of_skip (exec_skp_of_le hle) (.inr (.inr ⟨x, .inl rfl⟩))
  | sknp x =>
    have hle := Nat.not_lt.mp fun hgt => h .keyIndexOutOfRange ⟨x, .inr rfl, hgt⟩
    exact goes_of_skip (exec_sknp_of_le hle) (.inr (.inr ⟨x, .inr rfl⟩))
  | ldVxDT x => exact goes_of_result (exec_ldVxDT x s) rfl
  | ldVxK x =>
    by_cases hkeys : s.keys = 0
    · exact ⟨_, exec_ldVxK_of_noKey x hkeys, .keyWait x hkeys⟩
    · exact goes_of_result (exec_ldVxK_of_keyDown x hkeys) rfl
  | ldDTVx x => exact ⟨_, exec_ldDTVx x s, .setDT x _⟩
  | ldSTVx x => exact ⟨_, exec_ldSTVx x s, .setST x _⟩
  | addI x => exact ⟨_, exec_addI x s, .index _ (.inr ⟨x, .inl rfl⟩)⟩
  | ldF x => exact ⟨_, exec_ldF x s, .index _ (.inr ⟨x, .inr rfl⟩)⟩
  | ldB x =>
    have hle := Nat.not_lt.mp fun hgt => h .memOutOfRange (.inr (.inl ⟨x, rfl, hgt⟩))
    exact ⟨_, exec_ldB_of_le hle, .digits x _ (Nat.succ_le_succ hle)⟩
  | stRegs x =>
    have hle := Nat.not_lt.mp fun hgt => h .memOutOfRange (.inr (.inr ⟨x, .inl rfl, hgt⟩))
    have hlen := s.length_regsUpTo x
    exact ⟨_, exec_stRegs_of_le hle, .store x _ _ (by omega)⟩
  | ldRegs x =>
    have hle := Nat.not_lt.mp fun hgt => h .memOutOfRange (.inr (.inr ⟨x, .inr rfl, hgt⟩))
    exact ⟨_, exec_ldRegs_of_le hle, .load x _ _ fun _ hr => readV_writeVs_readBytes_of_gt hr⟩

/-- Everything an instruction can do: take a fault of the table, or go on with one of the effects (R160, R162). -/
theorem exec_cases (i : Instr) (s : State) :
    (∃ cause, faultCondition i s cause ∧ exec i s = .next (s.raise cause (encode i))) ∨ Goes i s := by
  by_cases h : ∃ cause, faultCondition i s cause
  · obtain ⟨cause, hcause⟩ := h
    exact .inl ⟨cause, hcause, exec_of_faultCondition hcause⟩
  · exact .inr (goes_of_no_faultCondition (not_exists.mp h))

/-- The same of a given answer. -/
theorem eq_raise_or_effect_of_exec {i : Instr} {s t : State} (h : exec i s = .next t) :
    (∃ cause, faultCondition i s cause ∧ t = s.raise cause (encode i)) ∨ Effect s i t := by
  obtain ⟨cause, hcause, hraise⟩ | ⟨u, hu, heffect⟩ := exec_cases i s
  · exact .inl ⟨cause, hcause, Host.Outcome.next.inj (h.symm.trans hraise)⟩
  · obtain rfl := Host.Outcome.next.inj (h.symm.trans hu)
    exact .inr heffect

theorem exec_completes (i : Instr) (s : State) : ∃ t : State, exec i s = .next t := by
  obtain ⟨cause, -, hraise⟩ | ⟨t, ht, -⟩ := exec_cases i s
  · exact ⟨_, hraise⟩
  · exact ⟨t, ht⟩

end Sys2Proof.Laws

namespace Sys2Proof.Proofs

open Sys2Proof.Machine Sys2Proof.Claim Sys2Proof.Laws

/-- Settles O47: a fault writes no register, and each effect that does writes those the table gives to its instruction. -/
theorem onlyListedInstructionsWriteARegister : Obligations.OnlyListedInstructionsWriteARegister := by
  unfold Obligations.OnlyListedInstructionsWriteARegister
  intro i s t r hexec hr
  obtain ⟨cause, -, rfl⟩ | heffect := eq_raise_or_effect_of_exec hexec
  · rfl
  · cases heffect with
    | registers v hv => exact hv r hr
    | sample x nn v hv => exact hv r hr
    | load x v a hv => exact hv r (Nat.not_le.mp hr)
    | draw x y n v d hv => exact hv r hr
    | _ => rfl

/-- Settles O48: a fault writes none of the five, and each effect that writes one belongs to a listed instruction. -/
theorem onlyListedInstructionsWriteASpecialRegister : Obligations.OnlyListedInstructionsWriteASpecialRegister := by
  unfold Obligations.OnlyListedInstructionsWriteASpecialRegister
  intro i s t hexec
  obtain ⟨cause, -, rfl⟩ | heffect := eq_raise_or_effect_of_exec hexec
  · simp
  · cases heffect with
    | index a hi =>
      obtain ⟨nnn, rfl⟩ | ⟨x, rfl | rfl⟩ := hi <;> simp
    | _ => simp

/-- Settles O49: a fault writes no storage, and each effect that writes one belongs to a listed instruction. -/
theorem onlyListedInstructionsWriteAStorage : Obligations.OnlyListedInstructionsWriteAStorage := by
  unfold Obligations.OnlyListedInstructionsWriteAStorage
  intro i s t hexec
  obtain ⟨cause, -, rfl⟩ | heffect := eq_raise_or_effect_of_exec hexec
  · simp
  · cases heffect with
    | _ => simp

/-- Settles O50: a fault and the key wait keep `PC`, a jump, a call and a return set it, a skip taken adds 4, every other effect 2. -/
theorem pcMovesOnlyInTheListedWays : Obligations.PcMovesOnlyInTheListedWays := by
  unfold Obligations.PcMovesOnlyInTheListedWays
  intro i s t hexec
  obtain ⟨cause, -, rfl⟩ | heffect := eq_raise_or_effect_of_exec hexec
  · exact .inr (.inr (.inr (.inr (.inr ⟨rfl, .inr rfl⟩))))
  · cases heffect with
    | skip hi => exact .inr (.inl ⟨rfl, hi⟩)
    | jump nnn => exact .inr (.inr (.inl ⟨nnn, .inl rfl, toNat_addr_setWidth nnn⟩))
    | call nnn h => exact .inr (.inr (.inl ⟨nnn, .inr rfl, toNat_addr_setWidth nnn⟩))
    | jumpV0 nnn => exact .inr (.inr (.inr (.inl ⟨nnn, rfl, toNat_addr_add_byte nnn (s.readV 0)⟩)))
    | ret k hk h => exact .inr (.inr (.inr (.inr (.inl ⟨rfl, k, hk, h, rfl⟩))))
    | keyWait x h => exact .inr (.inr (.inr (.inr (.inr ⟨rfl, .inl ⟨x, rfl, h⟩⟩))))
    | _ => exact .inl rfl

end Sys2Proof.Proofs
end

section
/-! SUPPORT. What a STEP and a command can do: the outcomes of a STEP with what each keeps, the event each command can raise, the word
placed where the STEP fetches (R60, R68, R140, R145, R146, R151). -/

namespace Sys2Proof.Laws

open Sys2Proof.Machine Sys2Proof.Claim

/-! ## What an effect keeps of the outputs (R22, R151, R152) -/

theorem Effect.keys_kept {s t : State} {i : Instr} (h : Effect s i t) : t.keys = s.keys := by
  cases h with
  | _ => rfl

theorem Effect.faultRegsKept {s t : State} {i : Instr} (h : Effect s i t) : FaultRegsKept s t := by
  cases h with
  | _ => exact ⟨rfl, rfl, rfl⟩

/-- The one effect with an event is the key wait (R132, R151). -/
theorem Effect.event_cases {s t : State} {i : Instr} (h : Effect s i t) :
    t.event = s.event ∨ (∃ x, i = .ldVxK x) ∧ s.keys = 0 ∧ t.event = some .keyWait := by
  cases h with
  | keyWait x hkeys => exact .inr ⟨⟨x, rfl⟩, hkeys, rfl⟩
  | _ => exact .inl rfl

/-- The one effect that samples the input `rnd` is that of `Cxnn` (R101, R152). -/
theorem Effect.draws_kept {s t : State} {i : Instr} (h : Effect s i t) (hi : ∀ x nn, i ≠ .rnd x nn) : t.draws = s.draws := by
  cases h with
  | sample x nn v hv => exact absurd rfl (hi x nn)
  | _ => rfl

/-! ## The outcomes of a STEP (R68, R146) -/

/-- A word decodes or is rejected as unmatched: a whole word is never too short (R64, R66). -/
theorem decodeWord_cases (w : Word) : (∃ i, decodeWord w = .ok i) ∨ decodeWord w = .error (.unmatched w) := by
  by_cases h : ∃ r ∈ opcodeTable true, w &&& r.mask = r.pat
  · obtain ⟨r, hr, hw⟩ := h
    exact .inl ⟨_, decodeWord_eq_ok_iff.mpr ⟨r, hr, hw, rfl⟩⟩
  · exact .inr (decodeWord_eq_unmatched_iff.mpr fun r hr hw => h ⟨r, hr, hw⟩)

/-- Everything a STEP can do: nothing, the fault of the fetch, an unmatched word, an instruction (R68). -/
theorem stepCommand_cases (s : State) :
    (s.fault = true ∧ stepCommand s = .next s) ∨
    (s.fault = false ∧ ((0xFFE < s.pc.toNat ∧ stepCommand s = .next (s.raise .fetchOutOfRange 0)) ∨
      s.pc.toNat ≤ 0xFFE ∧ ∃ ins, s.fetch = some ins ∧
        ((decodeWord ins = .error (.unmatched ins) ∧
            stepCommand s = .next { s with event := some (.unknownOp ins), pc := s.pc + 2 }) ∨
          ∃ i, decodeWord ins = .ok i ∧ stepCommand s = exec i s))) := by
  rcases Bool.eq_false_or_eq_true s.fault with hf | hf
  · exact .inl ⟨hf, stepCommand_of_fault hf⟩
  · refine .inr ⟨hf, ?_⟩
    rcases Nat.lt_or_ge 0xFFE s.pc.toNat with hgt | hle
    · exact .inl ⟨hgt, stepCommand_of_no_fetch hf (fetch_of_gt hgt)⟩
    · have hfetch := fetch_of_le hle
      have hrun := stepCommand_of_fetch hf hfetch
      refine .inr ⟨hle, _, hfetch, ?_⟩
      obtain ⟨i, hi⟩ | hunmatched := decodeWord_cases (wordOfBytes (s.mem.read s.pc.toNat) (s.mem.read (s.pc.toNat + 1)))
      · exact .inr ⟨i, hi, hrun.trans (runWord_of_decodeWord hi s)⟩
      · exact .inl ⟨hunmatched, hrun.trans (runWord_of_unmatched (decodeWord_eq_unmatched_iff.mp hunmatched) s)⟩

theorem stepCommand_completes (s : State) : ∃ t : State, stepCommand s = .next t := by
  obtain ⟨-, h⟩ | ⟨-, ⟨-, h⟩ | ⟨-, ins, -, ⟨-, h⟩ | ⟨i, -, h⟩⟩⟩ := stepCommand_cases s
  · exact ⟨_, h⟩
  · exact ⟨_, h⟩
  · exact ⟨_, h⟩
  · exact h ▸ exec_completes i s

theorem perform_completes (c : Command) (s : State) : ∃ t : State, perform c s = .next t := by
  cases c with
  | step => exact stepCommand_completes s
  | _ => exact ⟨_, rfl⟩

/-- The fault codes are 1 to 6 (R160). -/
theorem code_range (cause : FaultCause) : 1 ≤ cause.code.toNat ∧ cause.code.toNat ≤ 6 := by
  cases cause <;> decide

/-! ## The events (R145, R151) -/

/-- When a command performed on `s` with the answer `t` may raise the event: the table of R145 and the conditions of R132, R149, R170. -/
def mayRaise (c : Command) (s t : State) : Event → Prop
  | .unknownOp _ => c = .step
  | .keyWait => c = .step ∧ s.keys = 0
  | .programTooLarge => ∃ bs, c = .loadProgram bs ∧ 3583 < bs.length
  | .toneOn => c = .tick ∧ t.st ≠ 0
  | .toneOff => c = .tick ∧ t.st = 0

theorem mayRaise_of_stepCommand {s t : State} (h : stepCommand s = .next t) {e : Event} (he : t.event = some e) :
    s.event = some e ∨ mayRaise .step s t e := by
  obtain ⟨-, hstep⟩ | ⟨-, ⟨-, hstep⟩ | ⟨-, ins, -, ⟨-, hstep⟩ | ⟨i, -, hstep⟩⟩⟩ := stepCommand_cases s
  · obtain rfl := Host.Outcome.next.inj (h.symm.trans hstep)
    exact .inl he
  · obtain rfl := Host.Outcome.next.inj (h.symm.trans hstep)
    exact .inl he
  · obtain rfl := Host.Outcome.next.inj (h.symm.trans hstep)
    obtain rfl := Option.some.inj he
    exact .inr rfl
  · obtain ⟨cause, -, rfl⟩ | heffect := eq_raise_or_effect_of_exec (hstep.symm.trans h)
    · exact .inl he
    · obtain hkept | ⟨-, hkeys, hwait⟩ := heffect.event_cases
      · exact .inl (hkept ▸ he)
      · obtain rfl := Option.some.inj (hwait.symm.trans he)
        exact .inr ⟨rfl, hkeys⟩

theorem mayRaise_of_tick {s : State} {e : Event} (he : (tickCommand s).event = some e) : mayRaise .tick s (tickCommand s) e := by
  change toneEvent s.st = some e at he
  rw [toneEvent] at he
  split at he
  · cases he
  · split at he
    case isTrue hzero => cases he; exact ⟨rfl, hzero⟩
    case isFalse hpos => cases he; exact ⟨rfl, hpos⟩

theorem mayRaise_of_loadProgram {bytes : List Byte} {s : State} {e : Event} (he : (loadProgram bytes s).event = some e) :
    s.event = some e ∨ mayRaise (.loadProgram bytes) s (loadProgram bytes s) e := by
  rcases Nat.lt_or_ge 3583 bytes.length with hlarge | hfits
  · rw [loadProgram_of_gt hlarge] at he
    obtain rfl := Option.some.inj he
    exact .inr ⟨bytes, rfl, hlarge⟩
  · rw [loadProgram_of_le hfits] at he
    exact .inl he

/-- A command accepted with no event raises only an event of its own (R145, R151). -/
theorem mayRaise_of_perform {c : Command} {s t : State} (hnone : s.event = none) (h : perform c s = .next t) {e : Event}
    (he : t.event = some e) : mayRaise c s t e := by
  have hnot : s.event ≠ some e := by simp [hnone]
  cases c with
  | step => exact (mayRaise_of_stepCommand h he).resolve_left hnot
  | reset => cases h; cases he
  | loadProgram bytes => cases h; exact (mayRaise_of_loadProgram he).resolve_left hnot
  | tick => cases h; exact mayRaise_of_tick he
  | setKey k pressed => cases h; exact absurd he hnot

/-! ## The word at `PC` (R60, log 13) -/

/-- A step whose command is a STEP runs the instruction its two bytes at `PC` decode to (R68). -/
theorem step_of_decodeWord {s : State} {i : Instr} (hc : s.nextCommand = .step) (hf : s.fault = false) (hpc : s.pc.toNat ≤ 0xFFE)
    (hi : decodeWord (wordOfBytes (s.mem.read s.pc.toNat) (s.mem.read (s.pc.toNat + 1))) = .ok i) : step s = exec i s.accept := by
  have hfetch : s.accept.fetch = some _ := fetch_of_le hpc
  rw [step, hc]
  exact (stepCommand_of_fetch (s := s.accept) hf hfetch).trans (runWord_of_decodeWord hi s.accept)

/-- The host's number of a word, all 16 bits of it. -/
theorem tableWord_toNat (w : Word) : tableWord 16 w.toNat = w := by
  rw [tableWord, Nat.mod_eq_of_lt w.isLt, BitVec.ofNat_toNat, BitVec.setWidth_eq]

theorem withFetchWord_of_le {s : State} (w : Word) (hpc : s.pc.toNat ≤ 0xFFE) :
    s.withFetchWord 16 w.toNat =
      { s.poke s.pc.toNat (bytesOfWord w) with fault := false, faultCause := 0, faultIns := 0, script := [] } := by
  have hin : outsideMem s.pc.toNat 2 = false := (outsideMem_eq_false _ _).mpr (by omega)
  simp [State.withFetchWord, State.placeWord, tableWord_toNat, hin]

/-- A word stored at an address is the big-endian word read there (R43, R60). -/
theorem wordOfBytes_read_writeBytes (m : Memory) (a : Nat) (w : Word) :
    wordOfBytes ((m.writeBytes a (bytesOfWord w)).read a) ((m.writeBytes a (bytesOfWord w)).read (a + 1)) = w := by
  have hread : ∀ k (hk : k < 2), (m.writeBytes a (bytesOfWord w)).read (a + k) = (bytesOfWord w)[k] :=
    fun _ hk => read_writeBytes_add m a hk
  exact (congrArg₂ wordOfBytes (hread 0 (by decide)) (hread 1 (by decide))).trans (wordOfBytes_bytes w)

end Sys2Proof.Laws

namespace Sys2Proof.Proofs

open Sys2Proof.Machine Sys2Proof.Claim Sys2Proof.Laws

/-- Settles O12: an instruction takes a fault or has an effect, a STEP runs one instruction at most, and a step is a command. -/
theorem everyCommandCompletes : Obligations.EveryCommandCompletes := by
  unfold Obligations.EveryCommandCompletes
  exact ⟨perform_completes, fun s => perform_completes s.nextCommand s.accept, exec_completes⟩

/-- Settles O10: the cases of a STEP, the instruction's own split into the key wait, a fault and the other effects. -/
theorem stepHasExactlyFiveOutcomes : Obligations.StepHasExactlyFiveOutcomes := by
  unfold Obligations.StepHasExactlyFiveOutcomes
  intro s
  obtain ⟨hf, hstep⟩ | ⟨hf, ⟨-, hstep⟩ | ⟨-, ins, hfetch, ⟨hins, hstep⟩ | ⟨i, hins, hstep⟩⟩⟩ := stepCommand_cases s
  · exact ⟨s, hstep, rfl, .inl ⟨hf, rfl⟩⟩
  · exact ⟨_, hstep, rfl, .inr (.inl ⟨hf, 1, 0, by decide, by decide, rfl⟩)⟩
  · exact ⟨_, hstep, rfl, .inr (.inr (.inr (.inl ⟨hf, ins, hfetch, hins, rfl⟩)))⟩
  · by_cases hwait : (∃ x, i = .ldVxK x) ∧ s.keys = 0
    · obtain ⟨⟨x, rfl⟩, hkeys⟩ := hwait
      exact ⟨_, hstep.trans (exec_ldVxK_of_noKey x hkeys), rfl, .inr (.inr (.inl ⟨hf, ins, x, hfetch, hins, hkeys, rfl⟩))⟩
    · obtain ⟨cause, -, hraise⟩ | ⟨t, ht, heffect⟩ := exec_cases i s
      · obtain ⟨hlow, hhigh⟩ := code_range cause
        exact ⟨_, hstep.trans hraise, rfl, .inr (.inl ⟨hf, cause.code, encode i, hlow, hhigh, rfl⟩)⟩
      · obtain ⟨hfault, -, -⟩ := heffect.faultRegsKept
        have hevent := heffect.event_cases.resolve_right fun ⟨hx, hkeys, _⟩ => hwait ⟨hx, hkeys⟩
        exact ⟨t, hstep.trans ht, heffect.keys_kept,
          .inr (.inr (.inr (.inr ⟨hf, ins, i, hfetch, hins, ht, hwait, hfault.trans hf, hevent, heffect.draws_kept⟩)))⟩

/-- Settles O13: the command is accepted with the event of the one before gone, so an event found after it is its own. -/
theorem eventsComeFromTheirCommands : Obligations.EventsComeFromTheirCommands := by
  unfold Obligations.EventsComeFromTheirCommands
  intro s t hstep
  have hown : ∀ e, t.event = some e → mayRaise s.nextCommand s.accept t e := fun _ he => mayRaise_of_perform rfl hstep he
  exact ⟨fun ins => hown (.unknownOp ins), hown .keyWait, hown .programTooLarge, hown .toneOn, hown .toneOff⟩

/-- Settles O7: accepting the command leaves `PC` and `MEM`, so the STEP fetches what stands there. -/
theorem stepRunsTheDecodedInstruction : Obligations.StepRunsTheDecodedInstruction := by
  unfold Obligations.StepRunsTheDecodedInstruction
  exact fun _ _ hc hf hpc hi => step_of_decodeWord hc hf hpc hi

/-- Settles O14: the word placed is the word read at `PC`, and it decodes to the instruction it encodes. -/
theorem aPlacedInstructionRunsNext : Obligations.APlacedInstructionRunsNext := by
  unfold Obligations.APlacedInstructionRunsNext
  intro s i hpc
  rw [withFetchWord_of_le (encode i) hpc]
  refine ⟨step_of_decodeWord rfl rfl hpc ?_, rfl, fun a hlow hhigh => read_writeBytes_outside s.mem (n := 1) rfl (by omega)⟩
  exact (congrArg decodeWord (wordOfBytes_read_writeBytes s.mem s.pc.toNat (encode i))).trans (decodeWord_encode i)

end Sys2Proof.Proofs
end

section
/-! SUPPORT. The invariants of the machine hold at RESET and every command keeps them: each of the four by the fault, by each effect
and by the other commands (R14, R22, R25, R80, R145). -/

namespace Sys2Proof.Laws

open Sys2Proof.Machine Sys2Proof.Claim

/-- `nnn` is at most `0xFFF` and `nnn + V[0]` at most `0x10FE` (R14, R83). -/
theorem toNat_addr_add_byte_le (nnn : Addr) (b : Byte) : (nnn.setWidth 16 + b.setWidth 16).toNat ≤ 0x10FE := by
  have hn := nnn.isLt
  have hb := b.isLt
  rw [toNat_addr_add_byte]
  omega

/-- With no fault latched the fault registers are clear, and kept they stay clear, whatever `PC` becomes (R22). -/
theorem faultRegsAgree_of_kept {s t : State} (hf : s.fault = false) (hs : s.faultRegsAgree) (hkept : FaultRegsKept s t) :
    t.faultRegsAgree := by
  obtain ⟨hfault, hcause, hins⟩ := hkept
  obtain ⟨hclear, -⟩ := hs
  refine ⟨fun _ => ?_, fun hlatched => ?_⟩
  · rw [hcause, hins]
    exact hclear hf
  · simp [hfault, hf] at hlatched

/-! ## What an effect does to each of the invariants (R14, R22, R25, R80) -/

section
variable {s t : State} {i : Instr}

theorem Effect.mem_wf (h : Effect s i t) (hwf : s.mem.wf) : t.mem.wf := by
  cases h with
  | digits x bs hbs => exact Memory.wf_writeBytes bs hwf hbs
  | store x bs a hbs => exact Memory.wf_writeBytes bs hwf hbs
  | _ => exact hwf

/-- From a `PC` that was fetched, and return addresses that were, `PC` stays in `0..0x10FE` (R14, R23). -/
theorem Effect.pc_le (h : Effect s i t) (hpc : s.pc.toNat ≤ 0xFFE) (hs : s.stackFetchable) : t.pc.toNat ≤ 0x10FE := by
  have hnext : (s.pc + 2).toNat ≤ 0x10FE := by bv_omega
  have htarget : ∀ nnn : Addr, (nnn.setWidth 16 : Word).toNat ≤ 0x10FE := fun nnn => by
    have hn := nnn.isLt
    rw [toNat_addr_setWidth]
    omega
  cases h with
  | skip hi => show (s.pc + 4).toNat ≤ 0x10FE; bv_omega
  | jump nnn => exact htarget nnn
  | call nnn hroom => exact htarget nnn
  | jumpV0 nnn => exact toNat_addr_add_byte_le nnn (s.readV 0)
  | ret k hk hsp =>
    have hpopped := hs k hk (by omega)
    show (s.stack[k] + 2).toNat ≤ 0x10FE
    bv_omega
  | keyWait x hkeys => exact hpc.trans (by decide)
  | _ => exact hnext

/-- A call pushes the `PC` that was fetched, a return frees a slot, and no other effect touches the stack (R80, R82). -/
theorem Effect.stackFetchable (h : Effect s i t) (hpc : s.pc.toNat ≤ 0xFFE) (hs : s.stackFetchable) : t.stackFetchable := by
  cases h with
  | call nnn hroom =>
    intro k hk hlive
    show ((s.stack.set s.sp.val s.pc hroom)[k]).toNat ≤ 0xFFE
    rw [Vector.getElem_set]
    split
    · exact hpc
    · exact hs k hk (by have : k < s.sp.val + 1 := hlive; omega)
  | ret j hj hsp => exact fun k hk hlive => hs k hk (by have : k < j := hlive; omega)
  | _ => exact hs

/-- Every effect keeps the invariants, where the instruction was fetched with no fault latched. -/
theorem Effect.inv (h : Effect s i t) (hf : s.fault = false) (hpc : s.pc.toNat ≤ 0xFFE) (hs : s.Inv) : t.Inv := by
  obtain ⟨hwf, hagree, -, hstack⟩ := hs
  exact ⟨h.mem_wf hwf, faultRegsAgree_of_kept hf hagree h.faultRegsKept, h.pc_le hpc hstack, h.stackFetchable hpc hstack⟩

end

/-! ## The fault and the commands -/

/-- A fault keeps the invariants: its code is one of the six, and only the fetch's own asks for more (R22, R160). -/
theorem inv_raise {s : State} {cause : FaultCause} {w : Word} (hs : s.Inv)
    (hfetch : cause = .fetchOutOfRange → w = 0 ∧ 0xFFE < s.pc.toNat) : (s.raise cause w).Inv := by
  obtain ⟨hwf, -, hpc, hstack⟩ := hs
  obtain ⟨hlow, hhigh⟩ := code_range cause
  exact ⟨hwf, ⟨fun h => absurd h (by simp), fun _ => ⟨hlow, hhigh, fun hone => hfetch (code_eq_one_iff.mp hone)⟩⟩, hpc, hstack⟩

theorem inv_exec {i : Instr} {s t : State} (hf : s.fault = false) (hpc : s.pc.toNat ≤ 0xFFE) (hs : s.Inv)
    (h : exec i s = .next t) : t.Inv := by
  obtain ⟨cause, hcause, rfl⟩ | heffect := eq_raise_or_effect_of_exec h
  · exact inv_raise hs fun he => by subst he; exact hcause.elim
  · exact heffect.inv hf hpc hs

theorem inv_stepCommand {s t : State} (hs : s.Inv) (h : stepCommand s = .next t) : t.Inv := by
  obtain ⟨-, hstep⟩ | ⟨hf, ⟨hgt, hstep⟩ | ⟨hle, ins, -, ⟨-, hstep⟩ | ⟨i, -, hstep⟩⟩⟩ := stepCommand_cases s
  · obtain rfl := Host.Outcome.next.inj (h.symm.trans hstep)
    exact hs
  · obtain rfl := Host.Outcome.next.inj (h.symm.trans hstep)
    exact inv_raise hs fun _ => ⟨rfl, hgt⟩
  · obtain rfl := Host.Outcome.next.inj (h.symm.trans hstep)
    obtain ⟨hwf, hagree, -, hstack⟩ := hs
    exact ⟨hwf, faultRegsAgree_of_kept hf hagree ⟨rfl, rfl, rfl⟩, show (s.pc + 2).toNat ≤ 0x10FE by bv_omega, hstack⟩
  · exact inv_exec hf hle hs (hstep.symm.trans h)

theorem inv_loadProgram {s : State} (bytes : List Byte) (hs : s.Inv) : (loadProgram bytes s).Inv := by
  obtain ⟨hwf, hrest⟩ := hs
  rcases Nat.lt_or_ge 3583 bytes.length with hlarge | hfits
  · rw [loadProgram_of_gt hlarge]
    exact ⟨hwf, hrest⟩
  · rw [loadProgram_of_le hfits]
    exact ⟨Memory.wf_writeBytes bytes hwf (by omega), hrest⟩

/-- RESET leaves no cell listed, no fault, `PC` at `0x200` and no live return address, whatever it found (R26, R190). -/
theorem inv_resetCore (s : State) : s.resetCore.Inv := by
  refine ⟨Memory.wf_nil, ⟨fun _ => ⟨rfl, rfl⟩, fun hlatched => ?_⟩, ?_, fun _ _ hlive => absurd hlive (Nat.not_lt_zero _)⟩
  · cases hlatched
  · show Config.resetPc.toNat ≤ 0x10FE
    decide

/-- Every command keeps the invariants; TICK and SET_KEY write nothing they speak of. -/
theorem inv_perform {c : Command} {s t : State} (hs : s.Inv) (h : perform c s = .next t) : t.Inv := by
  cases c with
  | step => exact inv_stepCommand hs h
  | reset => cases h; exact inv_resetCore s
  | loadProgram bytes => cases h; exact inv_loadProgram bytes hs
  | tick => cases h; exact hs
  | setKey k pressed => cases h; exact hs

end Sys2Proof.Laws

namespace Sys2Proof.Proofs

open Sys2Proof.Machine Sys2Proof.Laws

/-- Settles O51: accepting a command writes nothing the invariants speak of, and every command keeps them. -/
theorem everyStepKeepsTheInvariants : Obligations.EveryStepKeepsTheInvariants := by
  unfold Obligations.EveryStepKeepsTheInvariants
  intro s t hs hstep
  have haccepted : s.accept.Inv := hs
  exact inv_perform haccepted hstep

/-- Settles O52: the reset state is what RESET leaves of itself. -/
theorem resetMeetsTheInvariants : Obligations.ResetMeetsTheInvariants := by
  unfold Obligations.ResetMeetsTheInvariants
  exact inv_resetCore State.reset

end Sys2Proof.Proofs
end

section
/-! SUPPORT. What an instruction does not read: the timers, the position in the stream of `rnd` and the script can be replaced before
it or after it, because every operation of the state commutes with the replacement (R101, R133 to R135, R152). -/

namespace Sys2Proof.Laws

open Sys2Proof.Machine Sys2Proof.Claim

/-- The state with its timers, its position in the stream of `rnd` and its script replaced, each from its old value. -/
def replaceOuter (d e : Byte → Byte) (n : Nat → Nat) (c : List Command → List Command) (s : State) : State :=
  { s with dt := d s.dt, st := e s.st, draws := n s.draws, script := c s.script }

/-- An answer with its next state replaced by `f` of it. -/
def mapNext (f : State → State) : Result → Result
  | .next t => .next (f t)
  | .fault r => .fault r
  | .refused r => .refused r

variable {d e : Byte → Byte} {n : Nat → Nat} {c : List Command → List Command}

/-! ## The operations that can fail commute with the replacement -/

theorem push_replaceOuter (s : State) (w : Word) :
    (replaceOuter d e n c s).push w = (s.push w).map (replaceOuter d e n c) := by
  simp only [State.push]
  by_cases hroom : s.sp.val < 16
  · rw [dif_pos hroom]
    exact dif_pos hroom
  · rw [dif_neg hroom]
    exact dif_neg hroom

theorem pop_replaceOuter (s : State) :
    (replaceOuter d e n c s).pop = s.pop.map fun p => (p.1, replaceOuter d e n c p.2) := by
  simp only [State.pop, replaceOuter]
  split <;> rfl

theorem store_replaceOuter (s : State) (a : Nat) (bs : List Byte) :
    (replaceOuter d e n c s).store a bs = (s.store a bs).map (replaceOuter d e n c) := by
  simp only [State.store]
  split <;> rfl

theorem load_replaceOuter (s : State) (a k : Nat) : (replaceOuter d e n c s).load a k = s.load a k := rfl

theorem keyIndex_replaceOuter (s : State) (x : Reg) : (replaceOuter d e n c s).keyIndex x = s.keyIndex x := rfl

theorem ea_replaceOuter (s : State) (k : Nat) : (replaceOuter d e n c s).ea k = s.ea k := rfl

theorem readV_replaceOuter (s : State) (x : Reg) : (replaceOuter d e n c s).readV x = s.readV x := rfl

theorem regsUpTo_replaceOuter (s : State) (x : Reg) : (replaceOuter d e n c s).regsUpTo x = s.regsUpTo x := rfl

theorem disp_replaceOuter (s : State) : (replaceOuter d e n c s).disp = s.disp := rfl

theorem pc_replaceOuter (s : State) : (replaceOuter d e n c s).pc = s.pc := rfl

theorem writeVs_replaceOuter (bs : List Byte) (s : State) (k : Nat) :
    (replaceOuter d e n c s).writeVs k bs = replaceOuter d e n c (s.writeVs k bs) := by
  induction bs generalizing s k with
  | nil => rfl
  | cons b bs ih =>
    simp only [State.writeVs]
    split
    · exact ih (s.writeV (BitVec.ofNat 4 k) b) (k + 1)
    · rfl

/-! ## An instruction commutes with the replacement -/

/-- An instruction that names a replaced field commutes with the replacement where that field is left alone. -/
theorem exec_replaceOuter (i : Instr) (s : State)
    (htimers : ∀ x, i = .ldVxDT x ∨ i = .ldDTVx x ∨ i = .ldSTVx x → d = id ∧ e = id) (hrnd : ∀ x nn, i = .rnd x nn → n = id) :
    exec i (replaceOuter d e n c s) = mapNext (replaceOuter d e n c) (exec i s) := by
  cases i with
  | ret =>
    simp only [exec, execRet, pop_replaceOuter]
    cases s.pop <;> rfl
  | call nnn =>
    simp only [exec, execCall, pc_replaceOuter, push_replaceOuter]
    cases s.push s.pc <;> rfl
  | rnd x nn =>
    obtain rfl := hrnd x nn rfl
    rfl
  | drw x y k =>
    simp only [exec, execDrw, drwWith, ea_replaceOuter, load_replaceOuter, readV_replaceOuter, disp_replaceOuter]
    cases s.load (s.ea 0) k.toNat with
    | none => rfl
    | some rows =>
      dsimp only
      cases drawSprite Config.spriteOob (s.readV x).toNat (s.readV y).toNat rows s.disp <;> rfl
  | skp x =>
    simp only [exec, execSkp, keyIndex_replaceOuter]
    cases s.keyIndex x <;> rfl
  | sknp x =>
    simp only [exec, execSknp, keyIndex_replaceOuter]
    cases s.keyIndex x <;> rfl
  | ldVxDT x =>
    obtain ⟨rfl, rfl⟩ := htimers x (.inl rfl)
    rfl
  | ldVxK x =>
    by_cases hkeys : s.keys = 0
    · exact (exec_ldVxK_of_noKey (s := replaceOuter d e n c s) x hkeys).trans
        (congrArg (mapNext (replaceOuter d e n c)) (exec_ldVxK_of_noKey x hkeys).symm)
    · exact (exec_ldVxK_of_keyDown (s := replaceOuter d e n c s) x hkeys).trans
        (congrArg (mapNext (replaceOuter d e n c)) (exec_ldVxK_of_keyDown x hkeys).symm)
  | ldDTVx x =>
    obtain ⟨rfl, rfl⟩ := htimers x (.inr (.inl rfl))
    rfl
  | ldSTVx x =>
    obtain ⟨rfl, rfl⟩ := htimers x (.inr (.inr rfl))
    rfl
  | ldB x =>
    simp only [exec, execLdB, ea_replaceOuter, readV_replaceOuter, store_replaceOuter]
    cases s.store (s.ea 0) (bcdDigits (s.readV x)) <;> rfl
  | stRegs x =>
    simp only [exec, execStRegs, ea_replaceOuter, regsUpTo_replaceOuter, store_replaceOuter]
    cases s.store (s.ea 0) (s.regsUpTo x) <;> rfl
  | ldRegs x =>
    simp only [exec, execLdRegs, ea_replaceOuter, load_replaceOuter, writeVs_replaceOuter]
    cases s.load (s.ea 0) (x.toNat + 1) <;> rfl
  | _ => rfl

/-- The same of a given answer. -/
theorem exec_replaceOuter_of_exec {i : Instr} {s t : State} (h : exec i s = .next t)
    (htimers : ∀ x, i = .ldVxDT x ∨ i = .ldDTVx x ∨ i = .ldSTVx x → d = id ∧ e = id) (hrnd : ∀ x nn, i = .rnd x nn → n = id) :
    exec i (replaceOuter d e n c s) = .next (replaceOuter d e n c t) :=
  (exec_replaceOuter i s htimers hrnd).trans (congrArg _ h)

/-! ## Another position in the stream of `rnd` (R101, R152) -/

theorem exec_setDraws {i : Instr} {s t : State} (k : Nat) (hi : ∀ x nn, i ≠ .rnd x nn) (h : exec i s = .next t) :
    exec i { s with draws := k } = .next { t with draws := k } :=
  exec_replaceOuter_of_exec (d := id) (e := id) (n := fun _ => k) (c := id) h (fun _ _ => ⟨rfl, rfl⟩)
    fun x nn hx => absurd hx (hi x nn)

/-- A STEP reads the position only through the instruction it runs. -/
theorem stepCommand_setDraws {s t : State} (k : Nat)
    (hins : ∀ ins x nn, s.fetch = some ins → decodeWord ins ≠ .ok (.rnd x nn)) (h : stepCommand s = .next t) :
    stepCommand { s with draws := k } = .next { t with draws := k } := by
  rcases Bool.eq_false_or_eq_true s.fault with hf | hf
  · obtain rfl := Host.Outcome.next.inj ((stepCommand_of_fault hf).symm.trans h)
    exact stepCommand_of_fault hf
  · cases hfetch : s.fetch with
    | none =>
      obtain rfl := Host.Outcome.next.inj ((stepCommand_of_no_fetch hf hfetch).symm.trans h)
      exact stepCommand_of_no_fetch hf hfetch
    | some ins =>
      have hrun := (stepCommand_of_fetch hf hfetch).symm.trans h
      refine (stepCommand_of_fetch (s := { s with draws := k }) hf hfetch).trans ?_
      obtain ⟨i, hi⟩ | hunmatched := decodeWord_cases ins
      · rw [runWord_of_decodeWord hi] at hrun ⊢
        exact exec_setDraws k (fun x nn he => hins ins x nn hfetch (he ▸ hi)) hrun
      · rw [runWord_of_unmatched (decodeWord_eq_unmatched_iff.mp hunmatched)] at hrun ⊢
        obtain rfl := Host.Outcome.next.inj hrun
        rfl

end Sys2Proof.Laws

namespace Sys2Proof.Proofs

open Sys2Proof.Machine Sys2Proof.Laws

/-- Settles O53: the script is replaced alone for every instruction, both timers for every one that names none. -/
theorem timersAndScriptInfluenceNothingElse : Obligations.TimersAndScriptInfluenceNothingElse := by
  unfold Obligations.TimersAndScriptInfluenceNothingElse
  refine fun i s t h => ⟨fun script => ?_, fun hi d e => ?_⟩
  · exact exec_replaceOuter_of_exec (d := id) (e := id) (n := id) (c := fun _ => script) h (fun _ _ => ⟨rfl, rfl⟩) fun _ _ _ => rfl
  · refine exec_replaceOuter_of_exec (d := fun _ => d) (e := fun _ => e) (n := id) (c := id) h (fun x hx => ?_) fun _ _ _ => rfl
    obtain ⟨hDT, hsetDT, hsetST⟩ := hi x
    exact absurd hx (by simp [hDT, hsetDT, hsetST])

/-- Settles O55: the position in the stream is replaced alone, and a STEP depends on it through its instruction alone. -/
theorem onlyRndReadsTheRandomInput : Obligations.OnlyRndReadsTheRandomInput := by
  unfold Obligations.OnlyRndReadsTheRandomInput
  exact ⟨fun _ _ _ k hi h => exec_setDraws k hi h, fun _ _ k hins h => stepCommand_setDraws k hins h⟩

end Sys2Proof.Proofs
end

section
/-! SUPPORT. A draw repeated: the same cells flipped twice are the display as it was, and the second draw meets the pixels the first one
set (R121). -/

namespace Sys2Proof.Laws

open Sys2Proof.Machine Sys2Proof.Claim

/-- The 2048 pixels are the whole display (R20, R53). -/
theorem disp_eq_of_pix_eq {s t : State} (h : ∀ col row : Nat, col < 64 → row < 32 → t.pix col row = s.pix col row) :
    t.disp = s.disp := by
  apply BitVec.eq_of_getLsbD_eq
  intro k hk
  have hpix := h (k % 64) (k / 64) (by omega) (by omega)
  rwa [State.pix, State.pix, Nat.mod_add_div] at hpix

/-- The same pixels drawn twice: the display comes back, and the second draw collides where a covered pixel was clear before both. -/
theorem drawn_twice {covers : Nat → Nat → Prop} {s t u : State} (hfirst : drawn covers s t) (hsecond : drawn covers t u) :
    u.disp = s.disp ∧
      ((∃ col row : Nat, col < 64 ∧ row < 32 ∧ covers col row ∧ s.pix col row = false) → u.readV VF = 1) ∧
      ((¬ ∃ col row : Nat, col < 64 ∧ row < 32 ∧ covers col row ∧ s.pix col row = false) → u.readV VF = 0) := by
  obtain ⟨-, hpix, -, -, -⟩ := hfirst
  obtain ⟨-, hpix', -, hhit, hmiss⟩ := hsecond
  refine ⟨disp_eq_of_pix_eq fun col row hcol hrow => ?_, ?_, fun hnone => hmiss ?_⟩
  · obtain ⟨hflip, hkeep⟩ := hpix col row hcol hrow
    obtain ⟨hflip', hkeep'⟩ := hpix' col row hcol hrow
    by_cases hc : covers col row
    · rw [hflip' hc, hflip hc, Bool.not_not]
    · rw [hkeep' hc, hkeep hc]
  · rintro ⟨col, row, hcol, hrow, hc, hclear⟩
    exact hhit ⟨col, row, hcol, hrow, hc, by rw [(hpix col row hcol hrow).1 hc, hclear]; rfl⟩
  · rintro ⟨col, row, hcol, hrow, hc, hset⟩
    rw [(hpix col row hcol hrow).1 hc, Bool.not_eq_true'] at hset
    exact hnone ⟨col, row, hcol, hrow, hc, hset⟩

/-- An instruction that answered with no fault latched met no condition of the table (R160). -/
theorem no_faultCondition_of_exec {i : Instr} {s t : State} (h : exec i s = .next t) (ht : t.fault = false) (cause : FaultCause) :
    ¬ faultCondition i s cause := by
  intro hcause
  obtain rfl := Host.Outcome.next.inj (h.symm.trans (exec_of_faultCondition hcause))
  cases ht

/-- The sprite of DRW and its place depend on `MEM`, `I` and the coordinate registers alone (R121). -/
theorem sprite_congr {x y : Reg} (n : Nibble) {s t : State} (hmem : t.mem = s.mem) (hi : t.i = s.i) (hx : t.readV x = s.readV x)
    (hy : t.readV y = s.readV y) : spriteOutsideMem n t = spriteOutsideMem n s ∧
      spriteLeavesGrid x y n t = spriteLeavesGrid x y n s ∧ spriteCovers x y n t = spriteCovers x y n s := by
  refine ⟨?_, ?_, ?_⟩
  · simp only [spriteOutsideMem, hi]
  · simp only [spriteLeavesGrid, hmem, hi, hx, hy]
  · funext col row
    simp only [spriteCovers, hmem, hi, hx, hy]

end Sys2Proof.Laws

namespace Sys2Proof.Proofs

open Sys2Proof.Machine Sys2Proof.Claim Sys2Proof.Laws

/-- Settles O38: a sprite of at most 15 rows keeps its cells on distinct pixels under `wrap`, and on the grid `reject` addresses the
same ones. -/
theorem eachPixelIsVisitedAtMostOnce : Obligations.EachPixelIsVisitedAtMostOnce := by
  unfold Obligations.EachPixelIsVisitedAtMostOnce
  intro x0 y0 rows hlen
  have hwrap : ((spriteCells x0 y0 rows).map (pixelIndex .wrap)).Nodup ∧
      ∀ k ∈ (spriteCells x0 y0 rows).map (pixelIndex .wrap), k < 2048 :=
    ⟨nodup_map_pixelIndex_wrap x0 y0 (by omega), List.forall_mem_map.mpr fun p _ => pixelIndex_wrap_lt p⟩
  exact ⟨hwrap, fun hon => (map_pixelIndex_reject hon).symm ▸ hwrap⟩

/-- Settles O39: the first draw leaves `MEM`, `I` and both coordinates, so the second is of the same sprite at the same place. -/
theorem drawingTwiceRestoresTheDisplay : Obligations.DrawingTwiceRestoresTheDisplay := by
  unfold Obligations.DrawingTwiceRestoresTheDisplay
  intro x y n s t hx hy hs hexec ht
  have hnone := no_faultCondition_of_exec hexec ht
  have hmem : ¬ spriteOutsideMem n s := fun hout => hnone .memOutOfRange (.inl ⟨x, y, n, rfl, hout⟩)
  have hinside : ¬ spriteLeavesGrid x y n s := fun hleaves => hnone .displayOutOfRange ⟨x, y, n, rfl, hmem, hleaves⟩
  obtain ⟨-, -, -, hdraw⟩ := drwXorsTheSpriteAndReportsCollision x y n s
  obtain ⟨t', ht', hfirst⟩ := hdraw hmem hinside
  obtain rfl := Host.Outcome.next.inj (hexec.symm.trans ht')
  have ⟨hframe, _, hkept, _⟩ := hfirst
  obtain ⟨hmemEq, hgridEq, hcoversEq⟩ := sprite_congr n (s := s) (by rw [hframe]) (by rw [hframe]) (hkept x hx) (hkept y hy)
  obtain ⟨-, -, -, hdraw'⟩ := drwXorsTheSpriteAndReportsCollision x y n t
  obtain ⟨u, hu, hsecond⟩ := hdraw' (hmemEq ▸ hmem) (hgridEq ▸ hinside)
  have ⟨hframe', _⟩ := hsecond
  have hfault : u.fault = t.fault := by rw [hframe']
  exact ⟨u, hu, hfault.trans ht, drawn_twice hfirst (hcoversEq ▸ hsecond)⟩

end Sys2Proof.Proofs
end

section
/-! SUPPORT. Register outcomes that depend on which operand is `VF`, the free byte of RND, a return after its call, a store seen by the
next fetch (R51, R80, R101, R103). -/

namespace Sys2Proof.Laws

open Sys2Proof.Machine Sys2Proof.Claim

/-! ## The flag instructions with `VF` as an operand (R103) -/

/-- With `VF` as the destination the result is written over the flag, which it may have read as an operand. -/
theorem readV_of_flagThenResult_VF {i : Instr} {s : State} {flag : Byte} {result : (Reg → Byte) → Byte}
    (h : exec i s = flagThenResult s VF flag result) :
    ∃ t, exec i s = .next t ∧ t.readV VF = result (s.writeV VF flag).readV := by
  obtain ⟨t, ht, -, hx, -⟩ := leaves_of_result h
  exact ⟨t, ht, hx⟩

/-- With another destination the flag stays in `VF` beside the result. -/
theorem readV_of_flagThenResult_ne {i : Instr} {s : State} {x : Reg} {flag : Byte} {result : (Reg → Byte) → Byte} (hx : x ≠ VF)
    (h : exec i s = flagThenResult s x flag result) :
    ∃ t, exec i s = .next t ∧ t.readV x = result (s.writeV VF flag).readV ∧ t.readV VF = flag := by
  obtain ⟨t, ht, -, hxv, hother⟩ := leaves_of_result h
  exact ⟨t, ht, hxv, (hother VF hx.symm).trans (State.readV_writeV_same s VF flag)⟩

/-- A bit shifted right by one leaves nothing. -/
theorem lowBitFlag_shiftRight_one (a : Byte) : lowBitFlag a >>> 1 = 0 := by
  apply BitVec.eq_of_toNat_eq
  rw [toNat_shiftRight_one, toNat_lowBitFlag]
  exact Nat.div_eq_of_lt (Nat.mod_lt _ (by decide))

/-- A bit shifted left by one is twice the bit. -/
theorem toNat_highBitFlag_shiftLeft_one (a : Byte) : (highBitFlag a <<< 1).toNat = 2 * (a.toNat / 128) := by
  have ha := a.isLt
  rw [toNat_shiftLeft_one, toNat_highBitFlag]
  omega

end Sys2Proof.Laws

namespace Sys2Proof.Proofs

open Sys2Proof.Machine Sys2Proof.Claim Sys2Proof.Laws

/-- Settles O27: every row of the table is one of the two shapes, the result read off the register file after the flag write. -/
theorem flagRegisterAsOperand : Obligations.FlagRegisterAsOperand := by
  unfold Obligations.FlagRegisterAsOperand
  intro x y s hx hy
  have hVF : ∀ flag : Byte, (s.writeV VF flag).readV VF = flag := State.readV_writeV_same s VF
  have hkept : ∀ (flag : Byte) {r : Reg}, r ≠ VF → (s.writeV VF flag).readV r = s.readV r :=
    fun flag _ hr => State.readV_writeV_ne s flag hr
  have hshr : ∀ y, ∃ t, exec (.shr VF y) s = .next t ∧ t.readV VF = 0 := fun y => by
    obtain ⟨t, ht, hv⟩ := readV_of_flagThenResult_VF (exec_shr VF y s)
    exact ⟨t, ht, by rw [hv, hVF, lowBitFlag_shiftRight_one]⟩
  have hshl : ∀ y, ∃ t, exec (.shl VF y) s = .next t ∧ (t.readV VF).toNat = 2 * ((s.readV VF).toNat / 128) := fun y => by
    obtain ⟨t, ht, hv⟩ := readV_of_flagThenResult_VF (exec_shl VF y s)
    exact ⟨t, ht, by rw [hv, hVF, toNat_highBitFlag_shiftLeft_one]⟩
  refine ⟨?_, ?_, ?_, ?_, ?_, ?_, hshr y, ?_, hshr VF, ?_, ?_, ?_, hshl y, ?_, hshl VF⟩
  · obtain ⟨t, ht, hv⟩ := readV_of_flagThenResult_VF (exec_addReg VF y s)
    exact ⟨t, ht, hv ▸ BitVec.toNat_add _ _⟩
  · obtain ⟨t, ht, hv, hflag⟩ := readV_of_flagThenResult_ne hx (exec_addReg x VF s)
    exact ⟨t, ht, hv ▸ BitVec.toNat_add _ _, hflag.trans (carryFlag_eq _ _)⟩
  · obtain ⟨t, ht, hv⟩ := readV_of_flagThenResult_VF (exec_addReg VF VF s)
    exact ⟨t, ht, by rw [hv, BitVec.toNat_add, Nat.two_mul]⟩
  · obtain ⟨t, ht, hv⟩ := readV_of_flagThenResult_VF (exec_sub VF y s)
    exact ⟨t, ht, by rw [hv, hVF, hkept _ hy, greaterFlag_eq]⟩
  · obtain ⟨t, ht, hv, hflag⟩ := readV_of_flagThenResult_ne hx (exec_sub x VF s)
    exact ⟨t, ht, hflag.trans (greaterFlag_eq _ _), by rw [hv, hVF, hkept _ hx, hflag]⟩
  · obtain ⟨t, ht, hv⟩ := readV_of_flagThenResult_VF (exec_sub VF VF s)
    exact ⟨t, ht, hv.trans (BitVec.sub_self _)⟩
  · obtain ⟨t, ht, hv, hflag⟩ := readV_of_flagThenResult_ne hx (exec_shr x VF s)
    exact ⟨t, ht, by rw [hv, hkept _ hx, toNat_shiftRight_one], by rw [hflag, toNat_lowBitFlag]⟩
  · obtain ⟨t, ht, hv⟩ := readV_of_flagThenResult_VF (exec_subn VF y s)
    exact ⟨t, ht, by rw [hv, hVF, hkept _ hy, greaterFlag_eq]⟩
  · obtain ⟨t, ht, hv, hflag⟩ := readV_of_flagThenResult_ne hx (exec_subn x VF s)
    exact ⟨t, ht, hflag.trans (greaterFlag_eq _ _), by rw [hv, hVF, hkept _ hx, hflag]⟩
  · obtain ⟨t, ht, hv⟩ := readV_of_flagThenResult_VF (exec_subn VF VF s)
    exact ⟨t, ht, hv.trans (BitVec.sub_self _)⟩
  · obtain ⟨t, ht, hv, hflag⟩ := readV_of_flagThenResult_ne hx (exec_shl x VF s)
    exact ⟨t, ht, by rw [hv, hkept _ hx, toNat_shiftLeft_one], by rw [hflag, toNat_highBitFlag]⟩

/-- Settles O28: RND is one register write of the masked byte, whatever the byte, and the step takes the byte from the free value. -/
theorem rndMasksAFreeByte : Obligations.RndMasksAFreeByte := by
  unfold Obligations.RndMasksAFreeByte
  refine fun x nn s => ⟨encodedAs_formatXB 0xC (RowMatch.rnd x nn) rfl, fun rnd => ?_, ?_⟩
  · exact ⟨_, rfl, rfl, State.readV_writeV_same s x _, fun _ hr => State.readV_writeV_ne s _ hr⟩
  · have hx : (s.sampled.writeV x (s.rndInput &&& nn)).readV x = s.rndInput &&& nn := State.readV_writeV_same s.sampled x _
    refine ⟨_, rfl, rfl, hx, fun b hb => ?_, fun _ hr => State.readV_writeV_ne s.sampled _ hr⟩
    exact (congrArg (BitVec.getLsbD · b) hx).trans (by simp [hb])

/-- Settles O18: the slot the CALL wrote is the one the RET reads, and neither touches another. -/
theorem retUndoesCall : Obligations.RetUndoesCall := by
  unfold Obligations.RetUndoesCall
  intro nnn s t u hroom hcall hsp hstack
  obtain rfl := Host.Outcome.next.inj (hcall.symm.trans (exec_call_of_room nnn hroom))
  have husp : u.sp.val = s.sp.val + 1 := congrArg Fin.val hsp
  refine ⟨_, exec_ret_of_sp hroom husp, rfl, ?_, rfl, fun k hk hne => ?_⟩
  · simp [hstack]
  · simp [hstack, Vector.getElem_set_ne, hne.symm]

/-- Settles O34: both bytes of the next word are among those stored, inside `MEM`, so the fetch reads the two registers. -/
theorem aStoreIsSeenByTheNextFetch : Obligations.AStoreIsSeenByTheNextFetch := by
  unfold Obligations.AStoreIsSeenByTheNextFetch
  intro x s t r r' hexec hle hsucc hr' hplace
  obtain ⟨-, -, hstored⟩ := registersAreStoredFromI x s
  obtain ⟨t', ht', hframe, -, hread, -⟩ := hstored hle
  obtain rfl := Host.Outcome.next.inj (hexec.symm.trans ht')
  have hpc : t.pc.toNat = s.pc.toNat + 2 := by
    have hpc2 : t.pc = s.pc + 2 := congrArg State.pc hframe
    bv_omega
  have hlow := hread r (by omega)
  have hhigh := hread r' hr'
  rw [fetch_of_le (by omega), hpc, ← hplace, hlow, Nat.add_assoc, ← hsucc, hhigh]

end Sys2Proof.Proofs
end
